-- ==== Sys2Proof/Word.lean ====
section
/-! DEFINITION. The word types of the block (spec 00_scope.md R9, R10): every value the spec treats as bits, unsigned,
bit 0 the least significant. -/

namespace Sys2Proof

/-- `u8`: the unit of every transfer (R10, R42). -/
abbrev Byte := BitVec 8

/-- `u7`: an ASCII code point (R10). -/
abbrev Ascii := BitVec 7

/-- `u5`: an ITA2 code (R10). -/
abbrev Code := BitVec 5

/-- The 10-bit command word, OP in bits 9..8 and DATA in bits 7..0 (R56). -/
abbrev Command := BitVec 10

/-- The 20-bit response word (R59). -/
abbrev RespWord := BitVec 20

/-- `zext_8` of a 5-bit code (R11, R53): bits 7..5 are 0. -/
def zextCode (k : Code) : Byte := k.setWidth 8

/-- `zext_8` of a 7-bit ASCII value (R11, R53): bit 7 is 0. -/
def zextAscii (a : Ascii) : Byte := a.setWidth 8

end Sys2Proof
end

