-- ==== Sys2Proof/Config.lean ====
section
/-! DEFINITION. What is fixed for a machine (00_scope.md section 3): the constants of R6, the types of the three
character tables (the configuration record of R7), and the open parameters of R8 as constants without a body. -/

namespace Sys2Proof

/-- The two shift states (R10, R13). -/
inductive Shift where
  | letters
  | figures
deriving DecidableEq, Repr

/-- The tagged result of one `ENC_ROM` entry (R10, R27). -/
inductive Tag where
  /-- No ITA2 equivalent: no output. -/
  | unrepresentable
  /-- The code is valid in either shift state. -/
  | both (k : Code)
  /-- The code is valid only in FIGURES. -/
  | figures (k : Code)
  /-- The code is valid only in LETTERS. -/
  | letters (k : Code)
deriving DecidableEq, Repr

/-- One entry of a decoder table (R10, R28): a 7-bit ASCII value or one of the two sentinels. -/
inductive DecEntry where
  | char (a : Ascii)
  | figsShift
  | ltrsShift
deriving DecidableEq, Repr

/-- The configuration record of R7: the contents of the three read-only tables (R26). -/
structure Tables where
  /-- `ENC_ROM`, indexed by a 7-bit ASCII code point. -/
  encRom : Vector Tag 128
  /-- `DEC_ROM_L`, read in LETTERS, indexed by a 5-bit code. -/
  decRomL : Vector DecEntry 32
  /-- `DEC_ROM_F`, read in FIGURES, indexed by a 5-bit code. -/
  decRomF : Vector DecEntry 32
deriving DecidableEq, Repr

/-- `FIGS_CODE` (R6). -/
def Config.figsCode : Code := 0x1B

/-- `LTRS_CODE` (R6). -/
def Config.ltrsCode : Code := 0x1F

/-- `ASCII_MASK` (R6): the encoder keeps the low 7 bits of its input. -/
def Config.asciiMask : Byte := 0x7F

/-- `CODE_LIMIT` (R6): the decoder accepts code bytes below it. -/
def Config.codeLimit : Byte := 32

/-- `MAX_ENC_OUT` (R6): the most code bytes one encode emits. -/
def Config.maxEncOut : Nat := 2

/-- `MAX_DEC_OUT` (R6): the most ASCII bytes one decode emits. -/
def Config.maxDecOut : Nat := 1

/-- The shift state every session starts in (R6, R17). -/
def Config.initialShift : Shift := .letters

/-- The identity string (R3). -/
def Config.identity : String := "ITA2-CODEC/ita2tools-v7"

/-- `P_FIG_0D` (R8): what the decoder emits for code 0x0D in FIGURES. Open: no value is assumed (log 2). -/
opaque Config.pFig0D : Ascii

/-- `P_FIG_14` (R8): what the decoder emits for code 0x14 in FIGURES. Open: no value is assumed (log 2). -/
opaque Config.pFig14 : Ascii

/-- `P_FIG_1A` (R8): what the decoder emits for code 0x1A in FIGURES. Open: no value is assumed (log 2). -/
opaque Config.pFig1A : Ascii

/-- The stored byte of a decoder ROM at the index of a shift code (R29; 93_implementation_defined.md U7): any value,
never read (log 9). The argument says which of the two ROMs. -/
opaque Config.unusedRomByte : Shift → Code → Byte

/-- Whether the driver sends the preamble before an EMPTY input (91_not_in_source.md N10, U13): not settled by the
spec, so open here (log 8). -/
opaque Config.preambleOnEmpty : Bool

end Sys2Proof
end

