-- ==== Sys2Proof/Machine/Operands.lean ====
section
/-! DEFINITION. Operand assembly (30_encoding.md R51, R52, R58). There are no other operand forms: no immediates, no
sign extension, no register operands. -/

namespace Sys2Proof.Machine

/-- The operand of `ENC`: `b & 0x7F` as a 7-bit code point (R51, R58, R66). Bit 7 is discarded, never an error. -/
def encOperand (data : Byte) : Ascii := (data &&& Config.asciiMask).setWidth 7

/-- The range check of `DEC` (R52, R78): codes are the bytes below 32, and the byte is NOT masked first. -/
def isCodeByte (data : Byte) : Bool := data < Config.codeLimit

/-- The operand of `DEC` after the range check: `b[4:0]` (R52, R77). -/
def decOperand (data : Byte) : Code := data.extractLsb' 0 5

end Sys2Proof.Machine
end

