-- ==== Sys2Proof/Syntax.lean ====
section
/-! DEFINITION. The commands of the block: one constructor per row of spec/opcode_table.json (30_encoding.md R57). -/

namespace Sys2Proof

/-- One command. Every constructor carries the eight DATA bits of its word (R56), also the two session commands, which
ignore them (R61): so no bit of a command word is lost by decoding it. -/
inductive Instr where
  /-- `ENC`, OP 00: encode the ASCII byte DATA (R65). -/
  | enc (data : Byte)
  /-- `DEC`, OP 01: decode the code byte DATA (R77). -/
  | dec (data : Byte)
  /-- `ENCNEW`, OP 10: start a new encoder session; DATA is ignored (R88). -/
  | encnew (data : Byte)
  /-- `DECNEW`, OP 11: start a new decoder session; DATA is ignored (R89). -/
  | decnew (data : Byte)
deriving DecidableEq, Repr

end Sys2Proof
end

