-- ==== Sys2Proof/Machine/State.lean ====
section
/-! DEFINITION. The state of the machine as plain data: the two shift registers of one session (10_state.md R15), and the
two ends of its command interface (the commands still to come, the responses given), which are the model's own. -/

namespace Sys2Proof.Machine

/-- The whole architectural state of one session (R15, R25): two 1-bit registers, and nothing else. -/
structure Session where
  /-- Shift state of the encoder: what the receiving end was last told. Written by `ENC`, `ENCNEW` and reset (R18). -/
  encShift : Shift
  /-- Shift state of the decoder: the last shift code received. Written by `DEC`, `DECNEW` and reset (R18). -/
  decShift : Shift
deriving DecidableEq, Repr

/-- The status of one response (R10, R60). No other status exists. -/
inductive Status where
  /-- The operation completed, with or without output. -/
  | ok
  /-- An `ENC` whose input is `Unrepresentable`: no output, nothing written. -/
  | skipped
  /-- A `DEC` whose input is above 31. -/
  | invalidCode
deriving DecidableEq, Repr

/-- The response to one command (R59): the status and the output bytes, the byte to be sent first at the head. -/
structure Response where
  status : Status
  out : List Byte
deriving DecidableEq, Repr

/-- What the outside can give the block: a command word from the driver (R56), or power-up or a hardware reset (R106). -/
inductive Input where
  | command (w : Command)
  | powerOnReset
deriving DecidableEq, Repr

/-- The machine: the session the block holds, and the driver's two ends of the interface. `pending` and `responses` are
the MODEL's own fields (log 1, log 3): the block itself has no buffer and no queue (R23). No operation reads
`responses` (R20). -/
structure State where
  /-- The two shift registers, which is all the state the spec gives the block (R15). -/
  session : Session
  /-- What the driver will give the block, next first (R46: one at a time, in the order issued). -/
  pending : List Input
  /-- The responses given so far, oldest first (R59, R114). -/
  responses : List Response
deriving DecidableEq, Repr

/-- The reasons a step stops with a fault: NONE. Every command in every state has exactly one result, and the block has
no stuck state (R12); `INVALID_CODE` is a response, after which the block goes on (R98). Nothing raises a fault, so
the question of safe or unsafe does not arise. -/
inductive Fault
deriving DecidableEq, Repr

/-- The reasons a step is refused. -/
inductive Refusal where
  /-- Raised only by an arm of `exec` whose instruction has no meaning yet: no arm of this model, since all four commands
  have theirs (R12: no refusals). Safe: nothing is claimed of a refused instruction. -/
  | notModelled (mnemonic : String)
deriving DecidableEq, Repr

/-- The session at power-on reset and at the start of every session (R17, R25, R106). -/
def Session.initial : Session := { encShift := Config.initialShift, decShift := Config.initialShift }

/-- The machine right after reset (R25, R106, R107): both registers LETTERS, no command given yet, no response yet. -/
def State.reset : State := { session := Session.initial, pending := [], responses := [] }

end Sys2Proof.Machine
end

