-- ==== Sys2Proof/Machine/Tables.lean ====
section
/-! DEFINITION. The three read-only character tables: how an entry is read (20_memory.md R30), what every configuration
must meet (R28, R31 to R40), and the default configuration (30_encoding.md R54, R55). -/

namespace Sys2Proof.Machine

/-- `RomRead(ENC_ROM, a)` (R30, R67): no side effect, and the 7-bit index is always in range. -/
def encAt (T : Tables) (a : Ascii) : Tag := T.encRom[a.toNat]'(a.isLt)

/-- `RomRead(DEC_ROM_L, k)` or `RomRead(DEC_ROM_F, k)`, the table that the shift state selects (R28, R30, R81). -/
def decAt (T : Tables) : Shift → Code → DecEntry
  | .letters, k => T.decRomL[k.toNat]'(k.isLt)
  | .figures, k => T.decRomF[k.toNat]'(k.isLt)

/-- The character code of a tag, if it has one (R27). -/
def tagCode : Tag → Option Code
  | .unrepresentable => none
  | .both k => some k
  | .figures k => some k
  | .letters k => some k

/-- `canon` (R40): a lowercase letter becomes its uppercase letter, `"` becomes `'`, all else is itself. -/
def canon (c : Ascii) : Ascii :=
  if 0x61 ≤ c ∧ c ≤ 0x7A then c - 0x20 else if c = 0x22 then 0x27 else c

/-! ### What the source fixes about the contents -/

/-- R28, R37: the two sentinels stand at the two shift codes of both tables, and every other entry is a `Char`. -/
def decRomSentinels (T : Tables) : Prop :=
  ∀ sh : Shift, decAt T sh Config.figsCode = .figsShift ∧ decAt T sh Config.ltrsCode = .ltrsShift ∧
    ∀ k : Code, k ≠ Config.figsCode → k ≠ Config.ltrsCode → ∃ a : Ascii, decAt T sh k = .char a

/-- R32: a lowercase letter has the entry of its uppercase letter. -/
def encRomFoldsCase (T : Tables) : Prop :=
  ∀ c : Ascii, 0x41 ≤ c → c ≤ 0x5A → encAt T (c + 0x20) = encAt T c

/-- R33: `"` has the entry of `'`, which is representable. -/
def encRomQuote (T : Tables) : Prop :=
  encAt T 0x22 = encAt T 0x27 ∧ encAt T 0x27 ≠ .unrepresentable

/-- R34: `#`, `@` and `<` are `Unrepresentable`. -/
def encRomUnrepresentable (T : Tables) : Prop :=
  encAt T 0x23 = .unrepresentable ∧ encAt T 0x40 = .unrepresentable ∧ encAt T 0x3C = .unrepresentable

/-- R35: `3` is FIGURES-only and shares its code with `E`. -/
def romDigitThree (T : Tables) : Prop :=
  ∃ k : Code, encAt T 0x33 = .figures k ∧ encAt T 0x45 = .letters k ∧
    decAt T .letters k = .char 0x45 ∧ decAt T .figures k = .char 0x33

/-- The tag is `Letters` or `Both` (R36). -/
def lettersOrBoth (t : Tag) : Prop := ∃ k : Code, t = .letters k ∨ t = .both k

/-- R36: `A`, `T` and space need no shift in LETTERS, and the codes of `A` and `T` decode to them in LETTERS. -/
def romLettersAT (T : Tables) : Prop :=
  lettersOrBoth (encAt T 0x41) ∧ lettersOrBoth (encAt T 0x54) ∧ lettersOrBoth (encAt T 0x20) ∧
    (∀ k : Code, tagCode (encAt T 0x41) = some k → decAt T .letters k = .char 0x41) ∧
    (∀ k : Code, tagCode (encAt T 0x54) = some k → decAt T .letters k = .char 0x54)

/-- R38: no entry of the encoder table uses a shift code as a character code. -/
def encRomNoShiftCode (T : Tables) : Prop :=
  ∀ (c : Ascii) (k : Code), tagCode (encAt T c) = some k → k ≠ Config.figsCode ∧ k ≠ Config.ltrsCode

/-- R39, R40: in the state (or the states) a tag names, its code decodes to `canon` of the character. -/
def romRoundTrip (T : Tables) : Prop :=
  ∀ (c : Ascii) (k : Code),
    (encAt T c = .both k → decAt T .letters k = .char (canon c) ∧ decAt T .figures k = .char (canon c)) ∧
    (encAt T c = .letters k → decAt T .letters k = .char (canon c)) ∧
    (encAt T c = .figures k → decAt T .figures k = .char (canon c))

/-- What makes a configuration a configuration of this block (R41): R28 and R31 to R40. R31 (exactly one tag per code
point) and the index ranges of R26 hold by the type of `Tables`. -/
def tablesWf (T : Tables) : Prop :=
  decRomSentinels T ∧ encRomFoldsCase T ∧ encRomQuote T ∧ encRomUnrepresentable T ∧ romDigitThree T ∧
    romLettersAT T ∧ encRomNoShiftCode T ∧ romRoundTrip T

/-! ### The default configuration -/

/-- `ENC_ROM` entries 0x00 to 0x0F of the default configuration (R55). -/
def encRow0 : List Tag :=
  [
     .both 0x00, .unrepresentable, .unrepresentable, .unrepresentable,
     .unrepresentable, .figures 0x09, .unrepresentable, .figures 0x0B,
     .unrepresentable, .unrepresentable, .both 0x02, .unrepresentable,
     .unrepresentable, .both 0x08, .unrepresentable, .unrepresentable]

/-- `ENC_ROM` entries 0x10 to 0x1F of the default configuration (R55). -/
def encRow1 : List Tag :=
  [
     .unrepresentable, .unrepresentable, .unrepresentable, .unrepresentable,
     .unrepresentable, .unrepresentable, .unrepresentable, .unrepresentable,
     .unrepresentable, .unrepresentable, .unrepresentable, .unrepresentable,
     .unrepresentable, .unrepresentable, .unrepresentable, .unrepresentable]

/-- `ENC_ROM` entries 0x20 to 0x2F of the default configuration (R55). -/
def encRow2 : List Tag :=
  [
     .both 0x04, .unrepresentable, .figures 0x05, .unrepresentable,
     .unrepresentable, .unrepresentable, .unrepresentable, .figures 0x05,
     .figures 0x0F, .figures 0x12, .unrepresentable, .figures 0x11,
     .figures 0x0C, .figures 0x03, .figures 0x1C, .figures 0x1D]

/-- `ENC_ROM` entries 0x30 to 0x3F of the default configuration (R55). -/
def encRow3 : List Tag :=
  [
     .figures 0x16, .figures 0x17, .figures 0x13, .figures 0x01,
     .figures 0x0A, .figures 0x10, .figures 0x15, .figures 0x07,
     .figures 0x06, .figures 0x18, .figures 0x0E, .unrepresentable,
     .unrepresentable, .figures 0x1E, .unrepresentable, .figures 0x19]

/-- `ENC_ROM` entries 0x40 to 0x4F of the default configuration (R55). -/
def encRow4 : List Tag :=
  [
     .unrepresentable, .letters 0x03, .letters 0x19, .letters 0x0E,
     .letters 0x09, .letters 0x01, .letters 0x0D, .letters 0x1A,
     .letters 0x14, .letters 0x06, .letters 0x0B, .letters 0x0F,
     .letters 0x12, .letters 0x1C, .letters 0x0C, .letters 0x18]

/-- `ENC_ROM` entries 0x50 to 0x5F of the default configuration (R55). -/
def encRow5 : List Tag :=
  [
     .letters 0x16, .letters 0x17, .letters 0x0A, .letters 0x05,
     .letters 0x10, .letters 0x07, .letters 0x1E, .letters 0x13,
     .letters 0x1D, .letters 0x15, .letters 0x11, .unrepresentable,
     .unrepresentable, .unrepresentable, .unrepresentable, .unrepresentable]

/-- `ENC_ROM` entries 0x60 to 0x6F of the default configuration (R55). -/
def encRow6 : List Tag :=
  [
     .unrepresentable, .letters 0x03, .letters 0x19, .letters 0x0E,
     .letters 0x09, .letters 0x01, .letters 0x0D, .letters 0x1A,
     .letters 0x14, .letters 0x06, .letters 0x0B, .letters 0x0F,
     .letters 0x12, .letters 0x1C, .letters 0x0C, .letters 0x18]

/-- `ENC_ROM` entries 0x70 to 0x7F of the default configuration (R55). -/
def encRow7 : List Tag :=
  [
     .letters 0x16, .letters 0x17, .letters 0x0A, .letters 0x05,
     .letters 0x10, .letters 0x07, .letters 0x1E, .letters 0x13,
     .letters 0x1D, .letters 0x15, .letters 0x11, .unrepresentable,
     .unrepresentable, .unrepresentable, .unrepresentable, .unrepresentable]

/-- `DEC_ROM_L` entries 0x00 to 0x0F of the default configuration (R54). -/
def decLettersLow : List DecEntry :=
  [
     .char 0x00, .char 0x45, .char 0x0A, .char 0x41,
     .char 0x20, .char 0x53, .char 0x49, .char 0x55,
     .char 0x0D, .char 0x44, .char 0x52, .char 0x4A,
     .char 0x4E, .char 0x46, .char 0x43, .char 0x4B]

/-- `DEC_ROM_L` entries 0x10 to 0x1F of the default configuration (R54). -/
def decLettersHigh : List DecEntry :=
  [
     .char 0x54, .char 0x5A, .char 0x4C, .char 0x57,
     .char 0x48, .char 0x59, .char 0x50, .char 0x51,
     .char 0x4F, .char 0x42, .char 0x47, .figsShift,
     .char 0x4D, .char 0x58, .char 0x56, .ltrsShift]

/-- `DEC_ROM_F` entries 0x00 to 0x0F of the default configuration (R54); 0x0D is the open parameter `P_FIG_0D`. -/
def decFiguresLow (p0D : Ascii) : List DecEntry :=
  [
     .char 0x00, .char 0x33, .char 0x0A, .char 0x2D,
     .char 0x20, .char 0x27, .char 0x38, .char 0x37,
     .char 0x0D, .char 0x05, .char 0x34, .char 0x07,
     .char 0x2C, .char p0D, .char 0x3A, .char 0x28]

/-- `DEC_ROM_F` entries 0x10 to 0x1F of the default configuration (R54); 0x14 and 0x1A are the open parameters `P_FIG_14` and
`P_FIG_1A`. -/
def decFiguresHigh (p14 p1A : Ascii) : List DecEntry :=
  [
     .char 0x35, .char 0x2B, .char 0x29, .char 0x32,
     .char p14, .char 0x36, .char 0x30, .char 0x31,
     .char 0x39, .char 0x3F, .char p1A, .figsShift,
     .char 0x2E, .char 0x2F, .char 0x3D, .ltrsShift]

/-- The default content of `ENC_ROM` (R55). -/
def defaultEncRom : Vector Tag 128 :=
  ⟨(encRow0 ++ encRow1 ++ encRow2 ++ encRow3 ++ encRow4 ++ encRow5 ++ encRow6 ++ encRow7).toArray, rfl⟩

/-- The default content of `DEC_ROM_L` (R54). -/
def defaultDecRomL : Vector DecEntry 32 := ⟨(decLettersLow ++ decLettersHigh).toArray, rfl⟩

/-- The default content of `DEC_ROM_F` (R54) for given values of the three open parameters of R8. -/
def defaultDecRomF (p0D p14 p1A : Ascii) : Vector DecEntry 32 :=
  ⟨(decFiguresLow p0D ++ decFiguresHigh p14 p1A).toArray, rfl⟩

/-- The default configuration (R7, R54, R55) for given values of the three open parameters of R8. -/
def defaultTables (p0D p14 p1A : Ascii) : Tables :=
  { encRom := defaultEncRom, decRomL := defaultDecRomL, decRomF := defaultDecRomF p0D p14 p1A }

/-- The tables of this machine: the default configuration, its three open entries left open (R7, R8). They are constant
and the same in every session (R22, R30). -/
def tables : Tables := defaultTables Config.pFig0D Config.pFig14 Config.pFig1A

end Sys2Proof.Machine
end

