-- ==== Sys2Proof/Machine/Ops.lean ====
section
/-! DEFINITION. The named operations that the four commands share: writing a shift register (10_state.md R18), giving a
response (30_encoding.md R59), emitting a character code with its shift (40_encoder.md R69 to R71), failing with
`InvalidCode` (60_exceptions.md R95), and power-on reset (70_reset_and_hazards.md R106). -/

namespace Sys2Proof.Machine

/-- `enc_shift <- v` (R11). -/
def Session.setEncShift (S : Session) (v : Shift) : Session := { S with encShift := v }

/-- `dec_shift <- v` (R11). -/
def Session.setDecShift (S : Session) (v : Shift) : Session := { S with decShift := v }

/-- A completed operation (R60): status OK and these output bytes, in order. -/
def completed (out : List Byte) : Response := { status := .ok, out := out }

/-- The outcome of an `ENC` of an `Unrepresentable` character (R68, R94): SKIPPED, and no output. -/
def skippedResponse : Response := { status := .skipped, out := [] }

/-- `raise InvalidCode(b)` (R11, R95), the one failure of the block. The operation ends at once with the response
(INVALID_CODE, []) and the session as it was. THIS IS ALL THERE IS TO TAKING AN EXCEPTION HERE: no trap is entered,
nothing is saved, no mode changes, no vector is fetched (R98), and there is no return and no nesting (R99). -/
def raiseInvalidCode (S : Session) : Session × Response := (S, { status := .invalidCode, out := [] })

/-- The shift code that selects a shift state (R6). -/
def shiftCode : Shift → Code
  | .letters => Config.ltrsCode
  | .figures => Config.figsCode

/-- `ENC` of a character that needs the state `need` (R70, R71): the shift code first, and the register written, only when
the current state is another one; then the character code. -/
def emitIn (need : Shift) (k : Code) (S : Session) : Session × Response :=
  if S.encShift = need then (S, completed [zextCode k])
  else (S.setEncShift need, completed [zextCode (shiftCode need), zextCode k])

/-- One response given: the session after the operation, and the response at the end of what the driver has been given
(R59: every command produces one response; R46: in order). -/
def State.respond (s : State) (r : Session × Response) : State :=
  { s with session := r.1, responses := s.responses ++ [r.2] }

/-- Power-on reset of a session (R106): both registers LETTERS, whatever they were. -/
def resetSession (_ : Session) : Session := Session.initial

/-- Power-up or hardware reset (R106): both registers LETTERS, no response and no output byte. What the driver has been
given and what it is still to send are outside the block, so they stay. -/
def State.powerOnReset (s : State) : State := { s with session := resetSession s.session }

end Sys2Proof.Machine
end

