-- ==== Sys2Proof/Machine/Decoder.lean ====
section
/-! DEFINITION. The decoder: `DEC` (41_decoder.md R77). -/

namespace Sys2Proof.Machine

/-- The frame of `DEC` (R77): the range check first (R78), then the two shift codes (R79, R80), then `chars` for any other
code (step 3). No table is read before step 3. -/
def decodeFrame (chars : Code → Session × Response) (S : Session) (data : Byte) : Session × Response :=
  if !isCodeByte data then raiseInvalidCode S
  else if data = zextCode Config.figsCode then (S.setDecShift .figures, completed [])
  else if data = zextCode Config.ltrsCode then (S.setDecShift .letters, completed [])
  else chars (decOperand data)

/-- Step 3 of `DEC` (R81): the entry of the table that the shift state selects. In a configuration of this block the entry
is a `Char` here (R28); the sentinels are answered as what they say (R13), which no configuration reaches (log 10). -/
def decodeChar (T : Tables) (S : Session) (k : Code) : Session × Response :=
  match decAt T S.decShift k with
  | .char a => (S, completed [zextAscii a])
  | .figsShift => (S.setDecShift .figures, completed [])
  | .ltrsShift => (S.setDecShift .letters, completed [])

/-- The operation `DEC b` on one session with the tables `T` (R77). -/
def decodeOp (T : Tables) (S : Session) (data : Byte) : Session × Response := decodeFrame (decodeChar T S) S data

/-- `DEC` (R77). An invalid byte is a response, not a stop (R98, R99). -/
def execDec (data : Byte) (s : State) : Host.Outcome State Fault Refusal :=
  .next (s.respond (decodeOp tables s.session data))

end Sys2Proof.Machine
end

