-- ==== Sys2Proof/Machine/Encoder.lean ====
section
/-! DEFINITION. The encoder: `ENC` (40_encoder.md R65). -/

namespace Sys2Proof.Machine

/-- Steps 3 to 7 of `ENC` (R68 to R71): what the looked-up tag does. -/
def encodeTag (t : Tag) (S : Session) : Session × Response :=
  match t with
  | .unrepresentable => (S, skippedResponse)
  | .both k => (S, completed [zextCode k])
  | .figures k => emitIn .figures k S
  | .letters k => emitIn .letters k S

/-- The operation `ENC b` on one session with the tables `T` (R65): mask (R66), look up (R67), then by the tag. -/
def encodeOp (T : Tables) (S : Session) (data : Byte) : Session × Response :=
  encodeTag (encAt T (encOperand data)) S

/-- `ENC` (R65). It never fails: an `Unrepresentable` input is the outcome SKIPPED (R68). -/
def execEnc (data : Byte) (s : State) : Host.Outcome State Fault Refusal :=
  .next (s.respond (encodeOp tables s.session data))

end Sys2Proof.Machine
end

