-- ==== Sys2Proof/Machine/Sessions.lean ====
section
/-! DEFINITION. The two session commands (42_session.md R88, R89). -/

namespace Sys2Proof.Machine

/-- The operation `ENCNEW` (R88): the encoder register to LETTERS; no shift code, no preamble; `dec_shift` not touched. -/
def encNewOp (S : Session) : Session × Response := (S.setEncShift Config.initialShift, completed [])

/-- The operation `DECNEW` (R89): the decoder register to LETTERS; `enc_shift` not touched. -/
def decNewOp (S : Session) : Session × Response := (S.setDecShift Config.initialShift, completed [])

/-- `ENCNEW` (R88). DATA is ignored (R61). -/
def execEncnew (_data : Byte) (s : State) : Host.Outcome State Fault Refusal :=
  .next (s.respond (encNewOp s.session))

/-- `DECNEW` (R89). DATA is ignored (R61). -/
def execDecnew (_data : Byte) (s : State) : Host.Outcome State Fault Refusal :=
  .next (s.respond (decNewOp s.session))

end Sys2Proof.Machine
end

