-- ==== Sys2Proof/Decode.lean ====
section
/-! DEFINITION. Decoding and encoding of the command word (30_encoding.md R56, R57; spec/opcode_table.json). -/

namespace Sys2Proof

/-- `OP = CMD[9:8]` (R56). -/
def opField (w : Command) : BitVec 2 := w.extractLsb' 8 2

/-- `DATA = CMD[7:0]` (R56). -/
def dataField (w : Command) : Byte := w.extractLsb' 0 8

/-- The operation map of R57. Every value of OP is defined, so every 10-bit word decodes; the last arm is OP 11. -/
def decode (w : Command) : Instr :=
  match (opField w).toNat with
  | 0 => .enc (dataField w)
  | 1 => .dec (dataField w)
  | 2 => .encnew (dataField w)
  | _ => .decnew (dataField w)

/-- A number given as a command word that no 10-bit port carries (R56: a command is a 10-bit word). -/
inductive DecodeError where
  /-- Raised by `decodeNumber` for a number of 2^10 or more. Safe: no such word is a command of the block. -/
  | widerThanCommand (w : Nat)
deriving DecidableEq, Repr

/-- The command word a number stands for: its bits above `nbits` are no part of it, and of the others those above
bit 9 must be 0. -/
def commandOfNat (nbits w : Nat) : Option Command :=
  if w % 2 ^ nbits < 1024 then some (BitVec.ofNat 10 (w % 2 ^ nbits)) else none

/-- Decoding of any number at all: total, and a number that is no 10-bit word is rejected by name. -/
def decodeNumber (w : Nat) : Except DecodeError Instr :=
  if w < 1024 then .ok (decode (BitVec.ofNat 10 w)) else .error (.widerThanCommand w)

/-- The instruction the decoder reads from an opcode-table word (numbered as spec/opcode_table.json numbers bits). -/
def decodeTableWord (nbits w : Nat) : Option Instr :=
  (commandOfNat nbits w).map decode

/-- `CMD = OP, DATA` (R9 concatenation, R56). -/
def commandWord (op : BitVec 2) (data : Byte) : Command := op ++ data

/-- The word of a command (R57): the encoder that `decode` inverts. -/
def encode : Instr → Command
  | .enc data => commandWord 0b00 data
  | .dec data => commandWord 0b01 data
  | .encnew data => commandWord 0b10 data
  | .decnew data => commandWord 0b11 data

/-- A row of the operation map as R57 prints it: the mnemonic's match and mask values, and the command a matching
word is. -/
structure OpcodeRow where
  mnemonic : String
  mask : Command
  pattern : Command
deriving DecidableEq, Repr

/-- The four rows of R57 and of spec/opcode_table.json. -/
def opcodeRows : List OpcodeRow :=
  [ ⟨"ENC", 0x300, 0x000⟩, ⟨"DEC", 0x300, 0x100⟩, ⟨"ENCNEW", 0x300, 0x200⟩, ⟨"DECNEW", 0x300, 0x300⟩ ]

/-- A word matches a row when its bits under the mask are the row's pattern (R57). -/
def rowMatches (r : OpcodeRow) (w : Command) : Bool := w &&& r.mask == r.pattern

/-- The mnemonic of a command (R57). -/
def mnemonicOf : Instr → String
  | .enc _ => "ENC"
  | .dec _ => "DEC"
  | .encnew _ => "ENCNEW"
  | .decnew _ => "DECNEW"

end Sys2Proof
end

