-- ==== Sys2Proof/Machine/Fetch.lean ====
section
/-! DEFINITION. Giving the block its next command. The block fetches nothing and runs no program (10_state.md R19): the
driver gives it one command at a time (30_encoding.md R56). -/

namespace Sys2Proof.Machine

/-- The state in which the driver's next input is `x`, and the rest as it was. -/
def State.offer (s : State) (x : Input) : State := { s with pending := x :: s.pending }

/-- The state after the block has accepted the driver's next input. -/
def State.accept (s : State) : State := { s with pending := s.pending.tail }

/-- The state in which the driver's next command is the word the number `w` stands for. A number that is no 10-bit word
cannot be put on the command port, and nothing is offered then. -/
def offerWord (s : State) (nbits w : Nat) : State :=
  match commandOfNat nbits w with
  | some c => s.offer (.command c)
  | none => s

end Sys2Proof.Machine
end

