-- ==== Sys2Proof/Machine/Step.lean ====
section
/-! DEFINITION. One step: the block handles the next input, or, when there is none, waits (00_scope.md R12,
70_reset_and_hazards.md R107). -/

namespace Sys2Proof.Machine

/-- One step (R12): the next command decoded and run as one atomic operation (R46, R48), or a power-on reset (R106). With no
input given the block holds its two registers and does nothing else (R105, R107; log 4). -/
def step (s : State) : Host.Outcome State Fault Refusal :=
  match s.pending with
  | [] => .next s
  | .command w :: _ => exec (decode w) s.accept
  | .powerOnReset :: _ => .next s.accept.powerOnReset

/-- The state whose very next step runs the command word `w` (numbered as spec/opcode_table.json numbers bits): the word
is put before what the driver has still to send, and nothing else changes (log 5). -/
def State.withFetchWord (s : State) (nbits w : Nat) : State := offerWord s nbits w

end Sys2Proof.Machine
end

