-- ==== Sys2Proof/Machine/Assembler.lean ====
section
/-! DEFINITION. The command notation (30_encoding.md R63) and the pseudo-instructions (R64), one line at a time, over
lists of characters. What R63 and R64 leave open (spacing, hexadecimal digits, unescaped quotes and backslashes, escapes
outside their lists, lines that are not of the notation) is settled by log 7. -/

namespace Sys2Proof.Machine

/-- The pseudo-instructions (R64). -/
inductive Pseudo where
  /-- `ENCS "text"` -/
  | encs (text : List Byte)
  /-- `DECS b1, b2, ..., bn` -/
  | decs (bytes : List Byte)
  /-- `SESSION` -/
  | session
deriving DecidableEq, Repr

/-- The commands a pseudo-instruction expands to, in order (R64). -/
def expand : Pseudo → List Instr
  | .encs text => text.map Instr.enc
  | .decs bytes => bytes.map Instr.dec
  | .session => [.encnew 0, .decnew 0]

/-! ### Characters and bytes -/

/-- The double quote and the apostrophe, by their ASCII values. -/
def dquote : Char := Char.ofNat 0x22
def squote : Char := Char.ofNat 0x27
def backslash : Char := Char.ofNat 0x5C

/-- Blank space between the parts of a line: space and tab. -/
def isBlank (c : Char) : Bool := c.toNat == 0x20 || c.toNat == 0x09

def skipBlanks : List Char → List Char
  | [] => []
  | c :: cs => if isBlank c then skipBlanks cs else c :: cs

/-- The ASCII value of a character, if it has one (R63: a literal means the ASCII value). -/
def asciiByte (c : Char) : Option Byte := if c.toNat < 128 then some (BitVec.ofNat 8 c.toNat) else none

def isDigit (c : Char) : Bool := 0x30 ≤ c.toNat && c.toNat ≤ 0x39

/-- The value of a hexadecimal digit, of either letter case. -/
def hexValue (c : Char) : Option Nat :=
  if isDigit c then some (c.toNat - 0x30)
  else if 0x41 ≤ c.toNat && c.toNat ≤ 0x46 then some (c.toNat - 0x41 + 10)
  else if 0x61 ≤ c.toNat && c.toNat ≤ 0x66 then some (c.toNat - 0x61 + 10)
  else none

/-- The byte of two hexadecimal digits, as in `0xHH`. -/
def hexByte (h l : Char) : Option Byte :=
  match hexValue h, hexValue l with
  | some a, some b => some (BitVec.ofNat 8 (16 * a + b))
  | _, _ => none

/-- The escapes of a character literal (R63). Any other character after the backslash is no escape: the spec is silent on
it, and refusing the line is the model's DESIGN CHOICE (log 7). -/
def charEscape (c : Char) : Option Byte :=
  if c = 'n' then some 0x0A else if c = 'r' then some 0x0D else if c = '0' then some 0x00
  else if c = squote then some 0x27 else if c = backslash then some 0x5C else none

/-- A decimal number: its value so far, and what follows. -/
def decimal : Nat → List Char → Nat × List Char
  | n, [] => (n, [])
  | n, c :: cs => if isDigit c then decimal (10 * n + (c.toNat - 0x30)) cs else (n, c :: cs)

/-- `code(c)` (R63): the code column of R55 for the character `c`, which must not be `Unrepresentable`. -/
def codeOf (c : Char) : Option Byte :=
  (asciiByte c).bind fun b => (tagCode (encAt tables (b.setWidth 7))).map zextCode

/-- A `<byte>` of R63 at the front of the text, and what follows it. The form `code(c)` is for `DEC` only.
DESIGN CHOICE (log 7), where R63 is silent: a literal holds an apostrophe or a backslash only as the escapes R63 lists, so
three apostrophes in a row, and a single backslash between two apostrophes, are refused; so is an escape not in that
list. -/
def parseByte (forDec : Bool) : List Char → Option (Byte × List Char)
  | '0' :: 'x' :: h :: l :: rest => (hexByte h l).map (·, rest)
  | 'F' :: 'I' :: 'G' :: 'S' :: rest => some (zextCode Config.figsCode, rest)
  | 'L' :: 'T' :: 'R' :: 'S' :: rest => some (zextCode Config.ltrsCode, rest)
  | 'c' :: 'o' :: 'd' :: 'e' :: '(' :: c :: ')' :: rest => if forDec then (codeOf c).map (·, rest) else none
  | a :: b :: c :: rest =>
    if a = squote ∧ b = backslash then
      match rest with
      | q :: rest' => if q = squote then (charEscape c).map (·, rest') else none
      | [] => none
    else if a = squote then
      if b ≠ squote ∧ c = squote then (asciiByte b).map (·, rest) else none
    else parseDecimal (a :: b :: c :: rest)
  | text => parseDecimal text
where
  /-- A decimal number 0 to 255 (R63). -/
  parseDecimal (text : List Char) : Option (Byte × List Char) :=
    match text with
    | c :: _ =>
      if isDigit c then
        let r := decimal 0 text
        if r.1 < 256 then some (BitVec.ofNat 8 r.1, r.2) else none
      else none
    | [] => none

/-- One more byte at the front of a parsed string. -/
def consByte (b : Option Byte) (r : Option (List Byte × List Char)) : Option (List Byte × List Char) :=
  match b, r with
  | some v, some q => some (v :: q.1, q.2)
  | _, _ => none

/-- The text of an `ENCS` string after its opening quote, up to the closing one (R64). DESIGN CHOICE (log 7), where R64 is
silent: a backslash that begins none of the five escapes R64 lists makes the line refused, as does a string that is not
closed; an apostrophe stands for itself and needs no escape. -/
def parseString : List Char → Option (List Byte × List Char)
  | [] => none
  | c :: cs =>
    if c = dquote then some ([], cs)
    else if c = backslash then
      match cs with
      | [] => none
      | e :: cs' =>
        if e = dquote then consByte (some 0x22) (parseString cs')
        else if e = backslash then consByte (some 0x5C) (parseString cs')
        else if e = 'n' then consByte (some 0x0A) (parseString cs')
        else if e = 'r' then consByte (some 0x0D) (parseString cs')
        else if e = 'x' then
          match cs' with
          | h :: l :: cs'' => consByte (hexByte h l) (parseString cs'')
          | _ => none
        else none
    else consByte (asciiByte c) (parseString cs)

/-- The bytes of a `DECS` list, separated by commas, with blanks around them (R64). The first argument bounds how many. -/
def parseList : Nat → List Char → Option (List Byte × List Char)
  | 0, _ => none
  | n + 1, text =>
    match parseByte true (skipBlanks text) with
    | none => none
    | some (b, rest) =>
      match skipBlanks rest with
      | ',' :: more => consByte (some b) (parseList n more)
      | other => some ([b], other)

/-- Nothing more on the line but blanks and a comment, which `;` starts (R63). -/
def lineEnds (text : List Char) : Bool :=
  match skipBlanks text with
  | [] => true
  | c :: _ => c == ';'

/-- A result, if nothing but a comment follows it on the line. -/
def finish {α : Type} (r : Option (α × List Char)) (f : α → List Instr) : Option (List Instr) :=
  match r with
  | some (a, rest) => if lineEnds rest then some (f a) else none
  | none => none

/-- The operand field of a mnemonic: at least one blank, then the rest of the line. -/
def operandField : List Char → Option (List Char)
  | c :: cs => if isBlank c then some (skipBlanks cs) else none
  | [] => none

/-- The leading upper-case letters of the text, and what follows (R63: mnemonics are upper case). -/
def takeWord : List Char → List Char × List Char
  | [] => ([], [])
  | c :: cs => if 0x41 ≤ c.toNat && c.toNat ≤ 0x5A then (c :: (takeWord cs).1, (takeWord cs).2) else ([], c :: cs)

/-- The commands of a line whose mnemonic is `word` (R63, R64). -/
def parseCommand (word rest : List Char) : Option (List Instr) :=
  if word = ['E', 'N', 'C'] then finish ((operandField rest).bind (parseByte false)) fun b => [.enc b]
  else if word = ['D', 'E', 'C'] then finish ((operandField rest).bind (parseByte true)) fun b => [.dec b]
  else if word = ['E', 'N', 'C', 'N', 'E', 'W'] then finish (some ((), rest)) fun _ => [.encnew 0]
  else if word = ['D', 'E', 'C', 'N', 'E', 'W'] then finish (some ((), rest)) fun _ => [.decnew 0]
  else if word = ['E', 'N', 'C', 'S'] then
    finish ((operandField rest).bind fun t =>
      match t with
      | q :: cs => if q = dquote then parseString cs else none
      | [] => none) fun bs => expand (.encs bs)
  else if word = ['D', 'E', 'C', 'S'] then
    finish ((operandField rest).bind fun t => parseList t.length t) fun bs => expand (.decs bs)
  else if word = ['S', 'E', 'S', 'S', 'I', 'O', 'N'] then finish (some ((), rest)) fun _ => expand .session
  else none

/-- The commands one line stands for (R63: one command per line; R64): none at all for a line that is empty but for a
comment, and no answer for a line that is not of the notation. -/
def assembleLine (line : List Char) : Option (List Instr) :=
  if lineEnds line then some []
  else parseCommand (takeWord (skipBlanks line)).1 (takeWord (skipBlanks line)).2

/-- The command words of a list of lines, in order (R63). -/
def assemble : List (List Char) → Option (List Command)
  | [] => some []
  | line :: lines =>
    match assembleLine line, assemble lines with
    | some is, some ws => some (is.map encode ++ ws)
    | _, _ => none

/-! ### Writing a command in the notation -/

/-- The upper-case hexadecimal digit of a value below 16. -/
def hexDigit (n : Nat) : Char := if n < 10 then Char.ofNat (0x30 + n) else Char.ofNat (0x41 + (n - 10))

/-- `0xHH` (R63). -/
def hexText (b : Byte) : List Char := ['0', 'x', hexDigit (b.toNat / 16), hexDigit (b.toNat % 16)]

/-- A command in the notation of R63. DATA of a session command is not written. -/
def printInstr : Instr → List Char
  | .enc data => ['E', 'N', 'C', ' '] ++ hexText data
  | .dec data => ['D', 'E', 'C', ' '] ++ hexText data
  | .encnew _ => ['E', 'N', 'C', 'N', 'E', 'W']
  | .decnew _ => ['D', 'E', 'C', 'N', 'E', 'W']

end Sys2Proof.Machine
end

