-- ==== Sys2Proof/Machine/Run.lean ====
section
/-! DEFINITION. The spec's own step form, one session and one command giving one response (00_scope.md R12), for any
configuration of the tables; and a run, which is a finite list of commands (70_reset_and_hazards.md R114). -/

namespace Sys2Proof.Machine

/-- `step(S, cmd) = (S', resp)` (R12) for a decoded command, with the tables `T`. -/
def sessionOp (T : Tables) (S : Session) : Instr → Session × Response
  | .enc data => encodeOp T S data
  | .dec data => decodeOp T S data
  | .encnew _ => encNewOp S
  | .decnew _ => decNewOp S

/-- What one input does to a session, and the responses it gives: one for a command (R113), none for reset (R106). -/
def inputOp (T : Tables) (S : Session) : Input → Session × List Response
  | .command w => ((sessionOp T S (decode w)).1, [(sessionOp T S (decode w)).2])
  | .powerOnReset => (resetSession S, [])

/-- The inputs taken one at a time in the order given (R46): the session left, and the responses in order. -/
def runInputs (T : Tables) : Session → List Input → Session × List Response
  | S, [] => (S, [])
  | S, x :: xs =>
    let r := inputOp T S x
    let q := runInputs T r.1 xs
    (q.1, r.2 ++ q.2)

/-- The concatenation of the `out` lists of responses (R114). -/
def outputOf (rs : List Response) : List Byte := (rs.map Response.out).flatten

/-- The observable result of a run (R114): the responses in order, their concatenated output, the final registers. -/
structure RunResult where
  responses : List Response
  output : List Byte
  final : Session
deriving DecidableEq, Repr

/-- A run: a finite list of commands issued to one block from a start state (R114). -/
def runCommands (T : Tables) (S : Session) (cs : List Command) : RunResult :=
  let q := runInputs T S (cs.map Input.command)
  { responses := q.2, output := outputOf q.2, final := q.1 }

/-- The commands of `ENC b` for each byte, in order. -/
def encCommands (bs : List Byte) : List Command := bs.map fun b => encode (.enc b)

/-- The commands of `DEC b` for each byte, in order. -/
def decCommands (bs : List Byte) : List Command := bs.map fun b => encode (.dec b)

/-- The encoder's commands, `ENC` and `ENCNEW` (42_session.md R91). -/
def isEncSide : Instr → Bool
  | .enc _ => true
  | .dec _ => false
  | .encnew _ => true
  | .decnew _ => false

/-- The decoder's commands, `DEC` and `DECNEW` (42_session.md R92). -/
def isDecSide (i : Instr) : Bool := !isEncSide i

/-- Of the commands `cs` and the responses they got, in order, the responses to the commands of one side (R93). -/
def responsesTo (side : Instr → Bool) (cs : List Command) (rs : List Response) : List Response :=
  ((cs.zip rs).filter fun p => side (decode p.1)).map Prod.snd

/-- Up to `n` steps of the machine, to the first stop. -/
def stepMany : Nat → State → Host.Outcome State Fault Refusal
  | 0, s => .next s
  | n + 1, s =>
    match step s with
    | .next s' => stepMany n s'
    | .fault r => .fault r
    | .refused r => .refused r

end Sys2Proof.Machine
end

