-- ==== Sys2Proof/Machine/Driver.lean ====
section
/-! DEFINITION. What the external driver owes the block and the line (70_reset_and_hazards.md R108 to R111). The driver is
outside the block; these definitions say only which commands it issues and which stream it sends. -/

namespace Sys2Proof.Machine

/-- The preamble (R110): two `LTRS_CODE` bytes, sent by the driver and never given to `ENC`. -/
def preamble : List Byte := [zextCode Config.ltrsCode, zextCode Config.ltrsCode]

/-- An encoding session (R108 steps 1 and 3): `ENCNEW`, then one `ENC` per input byte, in input order. -/
def encodingSession (bs : List Byte) : List Command := encode (.encnew 0) :: encCommands bs

/-- A decoding session (R108 steps 1 and 3): `DECNEW`, then one `DEC` per received byte, in order. What the driver does
after an INVALID_CODE response (R108 step 4) is the driver's to decide: it can skip the byte, stop, or report an error
(R99). DESIGN CHOICE (log 18): this driver skips the byte, that is, it goes on with the next one. -/
def decodingSession (bs : List Byte) : List Command := encode (.decnew 0) :: decCommands bs

/-- The preamble the driver sends for these inputs: for an empty input the spec settles neither answer (R110; log 8). -/
def preambleFor (bs : List Byte) : List Byte :=
  if bs.isEmpty && !Config.preambleOnEmpty then [] else preamble

/-- The stream the driver transmits for an encoding session with these inputs, begun in any state of the block (R109). -/
def transmittedStream (T : Tables) (S : Session) (bs : List Byte) : List Byte :=
  preambleFor bs ++ (runCommands T S (encodingSession bs)).output

/-- What a receiver's decoding session outputs for a received stream (R108). DESIGN CHOICE (log 18): an invalid byte of the
stream adds nothing, and the bytes after it are decoded as if it had not been received (R98). -/
def receivedText (T : Tables) (S : Session) (stream : List Byte) : List Byte :=
  (runCommands T S (decodingSession stream)).output

/-- The characters that survive an encoding (R68, R87): the representable ones, each as `canon` of its low 7 bits. -/
def survivingText (T : Tables) (bs : List Byte) : List Byte :=
  (bs.filter fun b => encAt T (encOperand b) ≠ .unrepresentable).map fun b => zextAscii (canon (encOperand b))

end Sys2Proof.Machine
end

