-- ==== Sys2Proof/Machine/Flags.lean ====
section
/-! DEFINITION. The block has no condition codes (10_state.md R20). What it shows as bits: the two read-only outputs
`SHIFT_ENC` and `SHIFT_DEC` (R16, R24), and the response as a 20-bit word (30_encoding.md R59). -/

namespace Sys2Proof.Machine

/-- The bit of a shift state (R16): LETTERS 0, FIGURES 1. -/
def shiftBit : Shift → BitVec 1
  | .letters => 0
  | .figures => 1

/-- The read-only output `SHIFT_ENC` (R24). Reading it has no side effect: it is a function of the state. -/
def shiftEnc (S : Session) : BitVec 1 := shiftBit S.encShift

/-- The read-only output `SHIFT_DEC` (R24). -/
def shiftDec (S : Session) : BitVec 1 := shiftBit S.decShift

/-- The STATUS field (R59): 00 OK, 01 SKIPPED, 10 INVALID_CODE. -/
def statusBits : Status → BitVec 2
  | .ok => 0b00
  | .skipped => 0b01
  | .invalidCode => 0b10

/-- The status of a STATUS field; 11 is never produced (R59). -/
def statusOfBits (b : BitVec 2) : Option Status :=
  match b.toNat with
  | 0 => some .ok
  | 1 => some .skipped
  | 2 => some .invalidCode
  | _ => none

/-- The COUNT field (R59): the number of output bytes. -/
def countBits (r : Response) : BitVec 2 := BitVec.ofNat 2 r.out.length

/-- The OUT0 field (R59): the first output byte, 0x00 when COUNT is 0. -/
def out0 (r : Response) : Byte := r.out.getD 0 0

/-- The OUT1 field (R59): the second output byte, 0x00 when COUNT is below 2. -/
def out1 (r : Response) : Byte := r.out.getD 1 0

/-- The response as the 20-bit word STATUS, COUNT, OUT0, OUT1 (R59). -/
def responseWord (r : Response) : RespWord := statusBits r.status ++ countBits r ++ out0 r ++ out1 r

/-- What a consumer reads from a response word: `out` is the first COUNT bytes of OUT0, OUT1 (R59). A word with STATUS 11
or COUNT 3 may be treated as a fault of the link (93_implementation_defined.md U9), and this reader refuses it; any other
word it reads by its fields, also one that the block never produces (log 19). -/
def responseOfWord (w : RespWord) : Option Response :=
  match statusOfBits (w.extractLsb' 18 2), (w.extractLsb' 16 2).toNat with
  | none, _ => none
  | some st, 0 => some ⟨st, []⟩
  | some st, 1 => some ⟨st, [w.extractLsb' 8 8]⟩
  | some st, 2 => some ⟨st, [w.extractLsb' 8 8, w.extractLsb' 0 8]⟩
  | some _, _ => none

end Sys2Proof.Machine
end

