-- ==== Sys2Proof/Machine/Rom.lean ====
section
/-! DEFINITION. The physical format of the table entries (20_memory.md R29), and the two operations read from tables
stored in that format. -/

namespace Sys2Proof.Machine

/-- An `ENC_ROM` entry as stored (R29): tag in bits 6..5, code in bits 4..0, the code 00000 for `Unrepresentable`. -/
def tagBits : Tag → BitVec 7
  | .unrepresentable => (0b00 : BitVec 2) ++ (0 : Code)
  | .both k => (0b01 : BitVec 2) ++ k
  | .figures k => (0b10 : BitVec 2) ++ k
  | .letters k => (0b11 : BitVec 2) ++ k

/-- The tag of a stored entry (R29). The code bits of an `Unrepresentable` entry are never read
(93_implementation_defined.md U8). -/
def tagOfBits (e : BitVec 7) : Tag :=
  match (e.extractLsb' 5 2).toNat with
  | 0 => .unrepresentable
  | 1 => .both (e.extractLsb' 0 5)
  | 2 => .figures (e.extractLsb' 0 5)
  | _ => .letters (e.extractLsb' 0 5)

/-- A decoder ROM entry as stored (R29): one byte with bit 7 clear. At the sentinels any byte may stand, for it is never
read (U7; log 9). -/
def decEntryByte (sh : Shift) (k : Code) : DecEntry → Byte
  | .char a => zextAscii a
  | .figsShift => Config.unusedRomByte sh k
  | .ltrsShift => Config.unusedRomByte sh k

/-- The three ROMs in their physical format (R29). -/
structure RomImages where
  enc : Vector (BitVec 7) 128
  decL : Vector Byte 32
  decF : Vector Byte 32
deriving DecidableEq, Repr

/-- The stored form of a configuration (R29). -/
def romImages (T : Tables) : RomImages :=
  { enc := Vector.ofFn fun i => tagBits (encAt T (BitVec.ofFin i))
    decL := Vector.ofFn fun i => decEntryByte .letters (BitVec.ofFin i) (decAt T .letters (BitVec.ofFin i))
    decF := Vector.ofFn fun i => decEntryByte .figures (BitVec.ofFin i) (decAt T .figures (BitVec.ofFin i)) }

/-- The stored byte of a decoder ROM (R29, R30). -/
def imageDecAt (R : RomImages) : Shift → Code → Byte
  | .letters, k => R.decL[k.toNat]'(k.isLt)
  | .figures, k => R.decF[k.toNat]'(k.isLt)

/-- `ENC` read from the stored ROM (R29, R65). -/
def encodeFromImages (R : RomImages) (S : Session) (data : Byte) : Session × Response :=
  encodeTag (tagOfBits (R.enc[(encOperand data).toNat]'((encOperand data).isLt))) S

/-- `DEC` read from the stored ROMs (R29, R77): the sentinels are carried by the comparison with the two shift codes, which
comes before any table is read. -/
def decodeFromImages (R : RomImages) (S : Session) (data : Byte) : Session × Response :=
  decodeFrame (fun k => (S, completed [imageDecAt R S.decShift k])) S data

end Sys2Proof.Machine
end

