-- ==== Sys2Proof/Machine/System.lean ====
section
/-! DEFINITION. Several concurrent sessions: `N_SESSIONS` instances of the block (60_exceptions.md R103, 00_scope.md R8),
each with its own two registers, all with the same constant tables (20_memory.md R49). -/

namespace Sys2Proof.Machine

/-- A system of `n` blocks. `n` is the open parameter `N_SESSIONS` (R8), taken as an argument; a system that handles an
input has at least one block, since the input names one. The instances have no identifiers, no shared writable state and
no signals between them (R103): a position is only which block the driver of that session is wired to. -/
structure System (n : Nat) where
  sessions : Vector Session n
deriving DecidableEq, Repr

/-- Every session at its reset value (R17, R106). -/
def systemReset (n : Nat) : System n := { sessions := Vector.replicate n Session.initial }

/-- The registers of one block. -/
def sessionAt {n : Nat} (Y : System n) (k : Fin n) : Session := Y.sessions[k]

/-- One input to block `k` (R49, R103): that block alone acts; the responses go to its own driver. -/
def systemStep {n : Nat} (T : Tables) (Y : System n) (k : Fin n) (x : Input) : System n × List Response :=
  ({ sessions := Y.sessions.set k (inputOp T (sessionAt Y k) x).1 }, (inputOp T (sessionAt Y k) x).2)

end Sys2Proof.Machine
end

