-- ==== Sys2Proof/Safety.lean ====
section
/-! DEFINITION. What the claims mean by a legal response and a run that goes on (30_encoding.md R59, R60, R62;
60_exceptions.md R94; 00_scope.md R12). -/

namespace Sys2Proof.Machine

/-- A byte with bit 7 clear: every output byte of the block is one (20_memory.md R42). -/
def bit7Clear (b : Byte) : Prop := b.getLsbD 7 = false

/-- A two-byte output: a shift code first, then a code that is no shift code (40_encoder.md R72). -/
def shiftedPair (first second : Byte) : Prop :=
  (first = zextCode Config.figsCode ∨ first = zextCode Config.ltrsCode) ∧
    ∃ k : Code, second = zextCode k ∧ k ≠ Config.figsCode ∧ k ≠ Config.ltrsCode

/-- A response the block can produce (R59, R60, R62, R94): at most two bytes; no byte unless the status is OK; bit 7 clear
in each; and if there are two, a shift code and then a character code. -/
def legalResponse (r : Response) : Prop :=
  r.out.length ≤ Config.maxEncOut ∧ (r.status ≠ .ok → r.out = []) ∧ (∀ b ∈ r.out, bit7Clear b) ∧
    ∀ a b : Byte, r.out = [a, b] → shiftedPair a b

/-- Every response given so far is one the block can produce. -/
def responsesLegal (s : State) : Prop := ∀ r ∈ s.responses, legalResponse r

/-- The machine goes on: its step answers a next state (R12: no stuck states and no refusals). -/
def goesOn (s : State) : Prop := ∃ s' : State, step s = .next s'

/-- No two shift codes stand next to each other in a code stream (40_encoder.md R73). -/
def noAdjacentShifts : List Byte → Prop
  | a :: b :: rest =>
    ¬((a = zextCode Config.figsCode ∨ a = zextCode Config.ltrsCode) ∧
        (b = zextCode Config.figsCode ∨ b = zextCode Config.ltrsCode)) ∧ noAdjacentShifts (b :: rest)
  | _ => True

/-- No shift code of a code stream selects the state that is already current, the stream beginning in `sh` (R73). -/
def noRedundantShift : Shift → List Byte → Prop
  | _, [] => True
  | sh, b :: rest =>
    if b = zextCode Config.figsCode then sh = .letters ∧ noRedundantShift .figures rest
    else if b = zextCode Config.ltrsCode then sh = .figures ∧ noRedundantShift .letters rest
    else noRedundantShift sh rest

end Sys2Proof.Machine
end

