-- ==== Sys2Proof/WellFormed.lean ====
section
/-! DEFINITION. When a command is written as 30_encoding.md R61 says writers should write it. -/

namespace Sys2Proof

/-- The one thing the spec asks of a writer of commands (R61, last row): DATA of `ENCNEW` and `DECNEW` is put to 0.
This is NOT a legality check of the block: every 10-bit word is a legal command (R57), an ill-formed command still
decodes and runs, and its DATA is ignored. A well-formed command is one that the assembler of R63 can write. -/
def Instr.wellFormed : Instr → Bool
  | .enc _ => true
  | .dec _ => true
  | .encnew data => data == 0
  | .decnew data => data == 0

end Sys2Proof
end

