-- ==== Sys2Proof/Certificates/Slice0/Obligations.lean ====
section
/-! DEFINITION. The statements for the provers, from the numbered rules of spec/. `T` is a configuration of the tables:
where a statement needs the constraints of 20_memory.md R28 to R40 it takes them as the premise `tablesWf T`. -/

open Sys2Proof Sys2Proof.Machine

/-! ### Encoding -/

/-- Decoding the word of any command gives the command back, and encoding what any word decodes to gives the word back
(30_encoding.md R56, R57; no bit of a word is lost, also where the block ignores it). -/
def Obligations.DecodeAndEncodeAgree : Prop :=
  (∀ i : Instr, decode (encode i) = i) ∧ (∀ w : Command, encode (decode w) = w)

/-- R57: of the four rows of match and mask values a word matches exactly the one of the command it decodes to, with the
word's low eight bits as DATA; and those are the rows of spec/opcode_table.json. -/
def Obligations.EveryWordMatchesItsRowOnly : Prop :=
  (∀ w : Command,
    (w &&& 0x300 = 0x000 ↔ decode w = .enc (w.extractLsb' 0 8)) ∧
    (w &&& 0x300 = 0x100 ↔ decode w = .dec (w.extractLsb' 0 8)) ∧
    (w &&& 0x300 = 0x200 ↔ decode w = .encnew (w.extractLsb' 0 8)) ∧
    (w &&& 0x300 = 0x300 ↔ decode w = .decnew (w.extractLsb' 0 8))) ∧
  opcodeRows.map OpcodeRow.mnemonic = ["ENC", "DEC", "ENCNEW", "DECNEW"] ∧
  ∀ w : Command, ∀ r ∈ opcodeRows, rowMatches r w = true ↔ mnemonicOf (decode w) = r.mnemonic

/-- The words of 95_test_vectors.md section 2.5 decode to the commands listed there. -/
def Obligations.SpecWordsDecode : Prop :=
  decode 0x000 = .enc 0x00 ∧ decode 0x0FF = .enc 0xFF ∧ decode 0x100 = .dec 0x00 ∧ decode 0x1FF = .dec 0xFF ∧
    decode 0x200 = .encnew 0x00 ∧ decode 0x2A5 = .encnew 0xA5 ∧ decode 0x300 = .decnew 0x00 ∧
    decode 0x3FF = .decnew 0xFF

/-- A number is read as a command word exactly when it is one of the 1024 words of R56; any other number is rejected by
name (the model's own convention for what is no 10-bit word, log 6). -/
def Obligations.NumbersDecodeOrAreRejected : Prop :=
  ∀ n : Nat, (∀ w : Command, n = w.toNat → decodeNumber n = .ok (decode w)) ∧
    (1024 ≤ n → decodeNumber n = .error (.widerThanCommand n))

/-! ### One step -/

/-- A step runs the command it is given: decoded, accepted from the driver, and nothing else (R12, R46; that the
driver's commands stand in a list of State is log 1). -/
def Obligations.StepRunsTheDecodedCommand : Prop :=
  ∀ (s : State) (w : Command) (rest : List Input), s.pending = .command w :: rest →
    step s = exec (decode w) { s with pending := rest }

/-- With no input the block waits and holds its registers (R105, R107; that a step of the model is then the state
itself is log 4). -/
def Obligations.StepWaitsWithoutInput : Prop :=
  ∀ s : State, s.pending = [] → step s = .next s

/-- A power-on reset sets both registers to LETTERS whatever they were, gives no response and no output byte, and has
the effect on the registers of `ENCNEW` followed by `DECNEW` (R106). That a reset is one of the inputs and lands between
two commands is the model's log 4, and that what the driver has still to send stays as it is the model's log 17. -/
def Obligations.PowerOnResetClearsBothRegisters : Prop :=
  ∀ (s : State) (rest : List Input), s.pending = .powerOnReset :: rest →
    step s = .next { session := ⟨.letters, .letters⟩, pending := rest, responses := s.responses } ∧
    ∀ T : Tables, (runCommands T s.session [0x200, 0x300]).final = ⟨.letters, .letters⟩

/-- The machine after reset, the side that a session command starts, and both sides of every block after a
power-on reset are in LETTERS (R17). -/
def Obligations.EverySessionStartsInLetters : Prop :=
  State.reset.session.encShift = .letters ∧ State.reset.session.decShift = .letters ∧
    ∀ (T : Tables) (S : Session) (data : Byte),
      (sessionOp T S (.encnew data)).1.encShift = .letters ∧ (sessionOp T S (.decnew data)).1.decShift = .letters ∧
        resetSession S = ⟨.letters, .letters⟩ ∧
        ∀ (n : Nat) (k : Fin n), sessionAt (systemReset n) k = ⟨.letters, .letters⟩

/-- A word offered as the next command is what the next step runs (the model's own means of giving it one, log 5). -/
def Obligations.OfferedWordRunsNext : Prop :=
  ∀ (s : State) (w : Command), step (s.withFetchWord 16 w.toNat) = exec (decode w) s

/-- Every step of every state answers a next state: no stuck states, no refusals, no traps (R98; the sentence
of R12 on stuck states and refusals is marked derived by the spec). -/
def Obligations.MachineAlwaysGoesOn : Prop := ∀ s : State, goesOn s

/-! ### The commands -/

/-- `ENC` (R65), by the tag of the low seven bits of DATA (R68 to R71). In each form the session, the pending input and
the responses are given in full, so everything not named is unchanged. -/
def Obligations.EncRunsByItsTag : Prop :=
  (∀ data : Byte, decode ((0b00 : BitVec 2) ++ data) = .enc data) ∧
  (∀ (data : Byte) (s : State), encAt tables (data.setWidth 7) = .unrepresentable →
    exec (.enc data) s = .next { s with responses := s.responses ++ [⟨.skipped, []⟩] }) ∧
  (∀ (data : Byte) (s : State) (k : Code), encAt tables (data.setWidth 7) = .both k →
    exec (.enc data) s = .next { s with responses := s.responses ++ [⟨.ok, [k.setWidth 8]⟩] }) ∧
  (∀ (data : Byte) (s : State) (k : Code), encAt tables (data.setWidth 7) = .figures k →
    (s.session.encShift = .figures →
      exec (.enc data) s = .next { s with responses := s.responses ++ [⟨.ok, [k.setWidth 8]⟩] }) ∧
    (s.session.encShift = .letters →
      exec (.enc data) s = .next { s with
        session := { s.session with encShift := .figures }
        responses := s.responses ++ [⟨.ok, [0x1B, k.setWidth 8]⟩] })) ∧
  (∀ (data : Byte) (s : State) (k : Code), encAt tables (data.setWidth 7) = .letters k →
    (s.session.encShift = .letters →
      exec (.enc data) s = .next { s with responses := s.responses ++ [⟨.ok, [k.setWidth 8]⟩] }) ∧
    (s.session.encShift = .figures →
      exec (.enc data) s = .next { s with
        session := { s.session with encShift := .letters }
        responses := s.responses ++ [⟨.ok, [0x1F, k.setWidth 8]⟩] })) ∧
  (∀ s : State, s.session.encShift = .letters →
    exec (decode 0x033) s = .next { s with
      session := { s.session with encShift := .figures }
      responses := s.responses ++ [⟨.ok, [0x1B, 0x01]⟩] })

/-- `DEC` (R77): an invalid byte (R78), the two shift codes (R79, R80), and any other code (R81), with the open
parameters of R8 at the three national-use positions. Everything not named is unchanged. -/
def Obligations.DecRunsByItsByte : Prop :=
  (∀ data : Byte, decode ((0b01 : BitVec 2) ++ data) = .dec data) ∧
  (∀ (data : Byte) (s : State), 32 ≤ data.toNat →
    exec (.dec data) s = .next { s with responses := s.responses ++ [⟨.invalidCode, []⟩] }) ∧
  (∀ s : State, exec (.dec 0x1B) s = .next { s with
    session := { s.session with decShift := .figures }, responses := s.responses ++ [⟨.ok, []⟩] }) ∧
  (∀ s : State, exec (.dec 0x1F) s = .next { s with
    session := { s.session with decShift := .letters }, responses := s.responses ++ [⟨.ok, []⟩] }) ∧
  (∀ (data : Byte) (s : State), data.toNat < 32 → data ≠ 0x1B → data ≠ 0x1F →
    ∃ a : Ascii, decAt tables s.session.decShift (data.setWidth 5) = .char a ∧
      exec (.dec data) s = .next { s with responses := s.responses ++ [⟨.ok, [a.setWidth 8]⟩] }) ∧
  (∀ s : State, s.session.decShift = .figures →
    exec (.dec 0x01) s = .next { s with responses := s.responses ++ [⟨.ok, [0x33]⟩] } ∧
    exec (.dec 0x0D) s = .next { s with responses := s.responses ++ [⟨.ok, [Config.pFig0D.setWidth 8]⟩] } ∧
    exec (.dec 0x14) s = .next { s with responses := s.responses ++ [⟨.ok, [Config.pFig14.setWidth 8]⟩] } ∧
    exec (.dec 0x1A) s = .next { s with responses := s.responses ++ [⟨.ok, [Config.pFig1A.setWidth 8]⟩] })

/-- `ENCNEW` (R88), whatever its DATA: the encoder register to LETTERS, the response (OK, []), and nothing else. -/
def Obligations.EncnewStartsAnEncoderSession : Prop :=
  ∀ data : Byte, decode ((0b10 : BitVec 2) ++ data) = .encnew data ∧
    ∀ s : State, exec (.encnew data) s = .next
      { session := { encShift := .letters, decShift := s.session.decShift }
        pending := s.pending
        responses := s.responses ++ [⟨.ok, []⟩] }

/-- `DECNEW` (R89), whatever its DATA: the decoder register to LETTERS, the response (OK, []), and nothing else. -/
def Obligations.DecnewStartsADecoderSession : Prop :=
  ∀ data : Byte, decode ((0b11 : BitVec 2) ++ data) = .decnew data ∧
    ∀ s : State, exec (.decnew data) s = .next
      { session := { encShift := s.session.encShift, decShift := .letters }
        pending := s.pending
        responses := s.responses ++ [⟨.ok, []⟩] }

/-- Bit 7 of the byte given to `ENC` never matters (R51, R66; the spec marks the sentence as derived). -/
def Obligations.EncIgnoresBitSeven : Prop :=
  ∀ (data : Byte) (s : State), exec (.enc (data ^^^ 0x80)) s = exec (.enc data) s

/-- Every command, in every state, gives exactly one response and a session, and neither depends on the responses given
before (R20) or on what the driver will send (R46). That the responses given so far stand in State is log 3. -/
def Obligations.EveryCommandGivesOneResponse : Prop :=
  ∀ (i : Instr) (S : Session), ∃ (S' : Session) (r : Response), ∀ (ps : List Input) (rs : List Response),
    exec i { session := S, pending := ps, responses := rs } =
      .next { session := S', pending := ps, responses := rs ++ [r] }

/-- Who writes the registers (R18): `ENC` writes `enc_shift` only when it emits a shift code, and then the state that
the code selects; `DEC` writes `dec_shift` only for a shift code; each session command writes its own register;
nothing else. -/
def Obligations.OnlyTheNamedCommandsWriteTheRegisters : Prop :=
  ∀ (T : Tables) (S : Session) (data : Byte), tablesWf T →
    (((sessionOp T S (.enc data)).1 = S ∧ (sessionOp T S (.enc data)).2.out.length ≤ 1) ∨
      ∃ (v : Shift) (b : Byte), S.encShift ≠ v ∧ (sessionOp T S (.enc data)).1 = { S with encShift := v } ∧
        (sessionOp T S (.enc data)).2.out = [zextCode (shiftCode v), b]) ∧
    (sessionOp T S (.dec data)).1 =
      { S with decShift := if data = 0x1B then .figures else if data = 0x1F then .letters else S.decShift } ∧
    (sessionOp T S (.encnew data)).1 = { S with encShift := .letters } ∧
    (sessionOp T S (.decnew data)).1 = { S with decShift := .letters } ∧
    resetSession S = ⟨.letters, .letters⟩

/-- The abnormal outcomes (R94): INVALID_CODE for a `DEC` of 0x20 or more and SKIPPED for an `ENC` of an unrepresentable
character, under these STATUS values, each with no output and no state written, and no others. -/
def Obligations.AbnormalOutcomesWriteNothing : Prop :=
  ∀ (T : Tables) (S : Session) (i : Instr),
    ((sessionOp T S i).2.status = .invalidCode ↔ ∃ data : Byte, i = .dec data ∧ 0x20 ≤ data.toNat) ∧
    ((sessionOp T S i).2.status = .skipped ↔
      ∃ data : Byte, i = .enc data ∧ encAt T ((data &&& 0x7F).setWidth 7) = .unrepresentable) ∧
    ((sessionOp T S i).2.status ≠ .ok → (sessionOp T S i).1 = S ∧ (sessionOp T S i).2.out = []) ∧
    statusBits .invalidCode = 0b10 ∧ statusBits .skipped = 0b01

/-! ### Outputs -/

/-- How many bytes each command emits (R62, R84, which the spec marks as derived; R6): for `ENC` by the tag and the
shift state, for `DEC` by the byte, none for the session commands. -/
def Obligations.OutputCountsFollowTheTable : Prop :=
  ∀ (T : Tables) (S : Session) (data : Byte), tablesWf T →
    (encodeOp T S data).2.out.length =
      (match encAt T (encOperand data), S.encShift with
        | .unrepresentable, _ => 0
        | .both _, _ => 1
        | .figures _, .figures => 1
        | .figures _, .letters => 2
        | .letters _, .letters => 1
        | .letters _, .figures => 2) ∧
    (decodeOp T S data).2.out.length = (if 32 ≤ data.toNat ∨ data = 0x1B ∨ data = 0x1F then 0 else 1) ∧
    (encNewOp S).2.out = [] ∧ (decNewOp S).2.out = [] ∧
    (encodeOp T S data).2.out.length ≤ Config.maxEncOut ∧ (decodeOp T S data).2.out.length ≤ Config.maxDecOut

/-- Every byte `ENC` emits is in 0 to 31, and a one-byte output is never a shift code (R72, R75, which the
spec marks as derived). -/
def Obligations.EncEmitsCodesOnly : Prop :=
  ∀ (T : Tables) (S : Session) (data : Byte), tablesWf T →
    (∀ b ∈ (encodeOp T S data).2.out, b.toNat < 32) ∧
    (∀ b : Byte, (encodeOp T S data).2.out = [b] → b ≠ 0x1B ∧ b ≠ 0x1F) ∧
    (∀ a b : Byte, (encodeOp T S data).2.out = [a, b] → (a = 0x1B ∨ a = 0x1F) ∧ b ≠ 0x1B ∧ b ≠ 0x1F)

/-- With the default tables `DEC` never emits a lowercase letter or a double quote (R85), the three open positions of R8
apart, whose values the spec leaves open (log 11). -/
def Obligations.DecNeverEmitsLowercase : Prop :=
  ∀ (p q r : Ascii) (S : Session) (data : Byte),
    ¬(S.decShift = .figures ∧ (data = 0x0D ∨ data = 0x14 ∨ data = 0x1A)) →
      ∀ b ∈ (decodeOp (defaultTables p q r) S data).2.out, ¬(0x61 ≤ b.toNat ∧ b.toNat ≤ 0x7A) ∧ b ≠ 0x22

/-- In the default tables NUL, LF, space and CR decode alike in both states (R83, which the spec marks as derived). -/
def Obligations.SharedCodesDecodeAlike : Prop :=
  ∀ (S S' : Session) (data : Byte), data ∈ ([0x00, 0x02, 0x04, 0x08] : List Byte) →
    (decodeOp tables S data).2 = (decodeOp tables S' data).2 ∧ (decodeOp tables S data).2.out.length = 1

/-- The response word (R59): its four fields, from the high end; and a reader gets the response back from it. -/
def Obligations.ResponseWordHasTheFieldsOfTheFormat : Prop :=
  ∀ (T : Tables) (S : Session) (i : Instr),
    let r := (sessionOp T S i).2
    (responseWord r).extractLsb' 18 2 = (match r.status with
      | .ok => 0b00
      | .skipped => 0b01
      | .invalidCode => 0b10) ∧
    ((responseWord r).extractLsb' 16 2).toNat = r.out.length ∧ r.out.length ≤ 2 ∧
    (responseWord r).extractLsb' 8 8 = (r.out[0]?).getD 0x00 ∧
    (responseWord r).extractLsb' 0 8 = (r.out[1]?).getD 0x00 ∧
    responseOfWord (responseWord r) = some r

/-- The reader refuses a response word exactly when its STATUS is 11 or its COUNT is 3. U9 of
93_implementation_defined.md allows the refusal; that every other word is read by its fields, also one that the block
never produces, is the model's choice (log 19). -/
def Obligations.ReaderRefusesWordsNeverProduced : Prop :=
  ∀ w : RespWord, (responseOfWord w = none ↔ w.extractLsb' 18 2 = 0b11 ∨ w.extractLsb' 16 2 = 0b11)

/-- The readback outputs show the registers, LETTERS as 0 and FIGURES as 1 (R16, R24). -/
def Obligations.ReadbackShowsTheRegisters : Prop :=
  ∀ S : Session, (shiftEnc S = 0 ↔ S.encShift = .letters) ∧ (shiftEnc S = 1 ↔ S.encShift = .figures) ∧
    (shiftDec S = 0 ↔ S.decShift = .letters) ∧ (shiftDec S = 1 ↔ S.decShift = .figures)

/-! ### The tables -/

/-- The default configuration meets every constraint of R28 and R31 to R40, for every value of its open parameters
(R41, which the spec marks as derived). -/
def Obligations.DefaultTablesMeetTheConstraints : Prop := ∀ p q r : Ascii, tablesWf (defaultTables p q r)

/-- The default table has 4 `Both`, 52 `Letters`, 24 `Figures` and 48 `Unrepresentable` entries (R55; the spec marks
the counts as derived). -/
def Obligations.DefaultTagCounts : Prop :=
  let tags := defaultEncRom.toList
  (tags.countP fun t => t matches .both _) = 4 ∧ (tags.countP fun t => t matches .letters _) = 52 ∧
    (tags.countP fun t => t matches .figures _) = 24 ∧ (tags.countP fun t => t matches .unrepresentable) = 48

/-- The thirty character codes, decoded one by one in each state with the default tables, spell the two columns of
R54. -/
def Obligations.CharacterCodesSpellTheAlphabet : Prop :=
  ∀ (sh : Shift) (p q r : Ascii),
    let codes : List Byte :=
      [0, 1, 2, 3, 4, 5, 6, 7, 8, 9, 10, 11, 12, 13, 14, 15, 16, 17, 18, 19, 20, 21, 22, 23, 24, 25, 26, 28, 29, 30]
    let spell : List Char → List Byte := List.map fun c => BitVec.ofNat 8 c.toNat
    let decoded : Shift → List Byte := fun v => codes.flatMap fun b => (decodeOp (defaultTables p q r) ⟨sh, v⟩ b).2.out
    decoded .letters =
      spell ['\x00', 'E', '\n', 'A', ' ', 'S', 'I', 'U', '\r', 'D', 'R', 'J', 'N', 'F', 'C', 'K', 'T', 'Z', 'L', 'W', 'H',
        'Y', 'P', 'Q', 'O', 'B', 'G', 'M', 'X', 'V'] ∧
    decoded .figures =
      spell ['\x00', '3', '\n', '-', ' ', squote, '8', '7', '\r', '\x05', '4', '\x07', ','] ++ [zextAscii p] ++
      spell [':', '(', '5', '+', ')', '2'] ++ [zextAscii q] ++ spell ['6', '0', '1', '9', '?'] ++ [zextAscii r] ++
      spell ['.', '/', '=']

/-- The physical format of R29: a stored `ENC_ROM` entry has its tag in bits 6..5 and its code, or 00000, in bits 4..0,
and a stored character of a decoder ROM is one byte with bit 7 clear, each at its own index; the tag is got back from
its entry; and the two operations read from tables so stored do what they do on the tables themselves, whatever bytes
stand in the two unused places of each decoder ROM (log 9). -/
def Obligations.StoredRomsGiveTheSameBlock : Prop :=
  (∀ t : Tag,
    (tagBits t).extractLsb' 5 2 = (match t with
      | .unrepresentable => 0b00
      | .both _ => 0b01
      | .figures _ => 0b10
      | .letters _ => 0b11) ∧
    (tagBits t).extractLsb' 0 5 = (match t with
      | .unrepresentable => 0b00000
      | .both k => k
      | .figures k => k
      | .letters k => k) ∧
    tagOfBits (tagBits t) = t) ∧
  (∀ (T : Tables) (c : Ascii), (romImages T).enc[c.toNat]'(c.isLt) = tagBits (encAt T c)) ∧
  (∀ (T : Tables) (sh : Shift) (k : Code) (a : Ascii), decAt T sh k = .char a →
    (imageDecAt (romImages T) sh k).toNat = a.toNat ∧ bit7Clear (imageDecAt (romImages T) sh k)) ∧
  ∀ (T : Tables) (S : Session) (data : Byte), decRomSentinels T →
    encodeFromImages (romImages T) S data = encodeOp T S data ∧
    decodeFromImages (romImages T) S data = decodeOp T S data

/-! ### Runs -/

/-- Stepping the machine through its pending inputs is the run of the session the spec describes (R12, R46, R114): the
registers it leaves, and its responses in order after those already given (the two lists of State are log 1 and log
3). -/
def Obligations.SteppingIsTheRunOfTheSession : Prop :=
  ∀ s : State, stepMany s.pending.length s = .next
    { session := (runInputs tables s.session s.pending).1
      pending := []
      responses := s.responses ++ (runInputs tables s.session s.pending).2 }

/-- Every step keeps the responses legal: at most two bytes (R59, R62), no byte unless the status is OK (R94), bit 7
clear in each (R42, R53), and two bytes only as a shift code and then a character code (R72). From any state, not only
in runs from reset (the responses given so far stand in State by log 3). -/
def Obligations.StepKeepsResponsesLegal : Prop :=
  ∀ s s' : State, responsesLegal s → step s = .next s' → responsesLegal s'

/-- After reset the responses are legal (there are none), and the machine waits for its first command (R107; log 4,
log 15). -/
def Obligations.ResetResponsesLegal : Prop :=
  responsesLegal State.reset ∧ State.reset.responses = [] ∧ step State.reset = .next State.reset

/-- In the output of any sequence of `ENC`, two shift codes are never adjacent and none selects the state that is
already current (R73, which the spec marks as derived). -/
def Obligations.EncodedStreamHasNoRedundantShift : Prop :=
  ∀ (T : Tables) (S : Session) (bs : List Byte), tablesWf T →
    noAdjacentShifts (runCommands T S (encCommands bs)).output ∧
    noRedundantShift S.encShift (runCommands T S (encCommands bs)).output

/-- The tracking invariant (R74, which the spec marks as derived), in any block and from any state in which the
receiver's register agrees with the sender's: after the whole code stream of a sequence of `ENC` the receiver's
register equals the sender's. -/
def Obligations.DecoderTracksTheEncoder : Prop :=
  ∀ (T : Tables) (S R : Session) (bs : List Byte), tablesWf T → R.decShift = S.encShift →
    (runCommands T R (decCommands (runCommands T S (encCommands bs)).output)).final.decShift =
      (runCommands T S (encCommands bs)).final.encShift

/-- The round trip of whole texts (from R87, R74, R109 and R110, which the spec marks as derived but for R110; whether a
preamble precedes an empty text stays open, log 8): a receiver that decodes the transmitted stream of an encoding
session, preamble included, gets every representable character of the text, each as its `canon`, in order. -/
def Obligations.ReceivedTextIsTheSurvivingText : Prop :=
  ∀ (T : Tables) (S R : Session) (bs : List Byte), tablesWf T →
    receivedText T R (transmittedStream T S bs) = survivingText T bs

/-- The preamble leaves a decoding session in LETTERS with no output (R110). -/
def Obligations.PreambleDecodesToNothing : Prop :=
  ∀ (T : Tables) (S : Session), (runCommands T S (decodingSession preamble)).output = [] ∧
    (runCommands T S (decodingSession preamble)).final = ⟨S.encShift, .letters⟩

/-- The two directions are independent (R93, which the spec marks as derived): any interleaving of commands gives each
side the responses and the register it would have from that side's commands alone. -/
def Obligations.DirectionsAreIndependent : Prop :=
  ∀ (T : Tables) (S : Session) (cs : List Command),
    let all := runCommands T S cs
    let enc := runCommands T S (cs.filter fun w => isEncSide (decode w))
    let dec := runCommands T S (cs.filter fun w => isDecSide (decode w))
    all.final = ⟨enc.final.encShift, dec.final.decShift⟩ ∧
      responsesTo isEncSide cs all.responses = enc.responses ∧
      responsesTo isDecSide cs all.responses = dec.responses

/-- Different sessions are independent (R49, R103; log 12): in a system of any number of blocks, one block included, an
input does to its own block, and gives as responses, what it does on that session alone; it changes no other block; and
inputs to two different blocks commute, in the state they leave and in the responses they give. -/
def Obligations.SessionsAreIndependent : Prop :=
  ∀ (n : Nat) (T : Tables) (Y : System n) (k : Fin n) (y : Input),
    sessionAt (systemStep T Y k y).1 k = (inputOp T (sessionAt Y k) y).1 ∧
    (systemStep T Y k y).2 = (inputOp T (sessionAt Y k) y).2 ∧
    ∀ (j : Fin n) (x : Input), j ≠ k →
      sessionAt (systemStep T Y k y).1 j = sessionAt Y j ∧
      (systemStep T (systemStep T Y k y).1 j x).2 = (systemStep T Y j x).2 ∧
      (systemStep T (systemStep T Y j x).1 k y).1 = (systemStep T (systemStep T Y k y).1 j x).1

/-! ### The notation -/

/-- Every command written as writers should write it (R61) is assembled from its own text (R63; log 7,
log 16). -/
def Obligations.AssembledTextIsTheCommand : Prop :=
  ∀ i : Instr, i.wellFormed = true → assembleLine (printInstr i) = some [i]

/-- The pseudo-instructions (R64): `ENCS` and `DECS` are the commands of their bytes in order, and `SESSION` is `ENCNEW`,
then `DECNEW` (with DATA 0, as R63 writes them), which starts both sides. -/
def Obligations.PseudoInstructionsExpand : Prop :=
  (∀ bs : List Byte, (expand (.encs bs)).map encode = encCommands bs ∧
    (expand (.decs bs)).map encode = decCommands bs) ∧
  expand .session = [.encnew 0x00, .decnew 0x00] ∧
  ∀ (T : Tables) (S : Session), runCommands T S ((expand .session).map encode) =
    { responses := [⟨.ok, []⟩, ⟨.ok, []⟩], output := [], final := ⟨.letters, .letters⟩ }
end

