-- ==== Sys2Proof/Laws/PerInstr.lean ====
section
/-! SUPPORT. The statements made for each command as syntax: where 30_encoding.md R57 puts its OP and its DATA. -/

namespace Sys2Proof.Laws

/-- The OP value of a command (R57). -/
def opOf : Instr → BitVec 2
  | .enc _ => 0b00
  | .dec _ => 0b01
  | .encnew _ => 0b10
  | .decnew _ => 0b11

/-- The DATA bits of a command (R56). -/
def dataOf : Instr → Byte
  | .enc data => data
  | .dec data => data
  | .encnew data => data
  | .decnew data => data

/-- The two fields of the word of a command (R56, R57). -/
def Encoding.Statement (i : Instr) : Prop := opField (encode i) = opOf i ∧ dataField (encode i) = dataOf i

/-- OP of a concatenated command word (R9, R56). -/
theorem opField_commandWord (op : BitVec 2) (data : Byte) : opField (commandWord op data) = op := by
  apply BitVec.eq_of_toNat_eq
  have h1 := data.isLt
  have h2 := op.isLt
  simp only [opField, commandWord, BitVec.extractLsb'_toNat, BitVec.toNat_append, Nat.shiftRight_eq_div_pow,
    Nat.shiftLeft_eq]
  rw [← Nat.shiftLeft_eq, ← Nat.shiftLeft_add_eq_or_of_lt h1, Nat.shiftLeft_eq]
  omega

/-- DATA of a concatenated command word (R9, R56). -/
theorem dataField_commandWord (op : BitVec 2) (data : Byte) : dataField (commandWord op data) = data := by
  apply BitVec.eq_of_toNat_eq
  have h1 := data.isLt
  have h2 := op.isLt
  simp only [dataField, commandWord, BitVec.extractLsb'_toNat, BitVec.toNat_append, Nat.shiftRight_zero]
  rw [← Nat.shiftLeft_add_eq_or_of_lt h1, Nat.shiftLeft_eq]
  omega

theorem Encoding.enc (data : Byte) : Encoding.Statement (.enc data) :=
  ⟨opField_commandWord _ _, dataField_commandWord _ _⟩

theorem Encoding.dec (data : Byte) : Encoding.Statement (.dec data) :=
  ⟨opField_commandWord _ _, dataField_commandWord _ _⟩

theorem Encoding.encnew (data : Byte) : Encoding.Statement (.encnew data) :=
  ⟨opField_commandWord _ _, dataField_commandWord _ _⟩

theorem Encoding.decnew (data : Byte) : Encoding.Statement (.decnew data) :=
  ⟨opField_commandWord _ _, dataField_commandWord _ _⟩

end Sys2Proof.Laws
end

