-- ==== Sys2Proof/Laws/State.lean ====
section
/-! SUPPORT. One lemma per field per update of the state, true by rfl, so that no later proof unfolds a record update. -/

namespace Sys2Proof.Laws

open Sys2Proof.Machine

@[simp] theorem setEncShift_encShift (S : Session) (v : Shift) : (S.setEncShift v).encShift = v := rfl
@[simp] theorem setEncShift_decShift (S : Session) (v : Shift) : (S.setEncShift v).decShift = S.decShift := rfl
@[simp] theorem setDecShift_encShift (S : Session) (v : Shift) : (S.setDecShift v).encShift = S.encShift := rfl
@[simp] theorem setDecShift_decShift (S : Session) (v : Shift) : (S.setDecShift v).decShift = v := rfl
@[simp] theorem initial_encShift : Session.initial.encShift = .letters := rfl
@[simp] theorem initial_decShift : Session.initial.decShift = .letters := rfl

@[simp] theorem respond_session (s : State) (r : Session × Response) : (s.respond r).session = r.1 := rfl
@[simp] theorem respond_pending (s : State) (r : Session × Response) : (s.respond r).pending = s.pending := rfl
@[simp] theorem respond_responses (s : State) (r : Session × Response) :
    (s.respond r).responses = s.responses ++ [r.2] := rfl

@[simp] theorem powerOnReset_session (s : State) : s.powerOnReset.session = Session.initial := rfl
@[simp] theorem powerOnReset_pending (s : State) : s.powerOnReset.pending = s.pending := rfl
@[simp] theorem powerOnReset_responses (s : State) : s.powerOnReset.responses = s.responses := rfl

@[simp] theorem offer_session (s : State) (x : Input) : (s.offer x).session = s.session := rfl
@[simp] theorem offer_pending (s : State) (x : Input) : (s.offer x).pending = x :: s.pending := rfl
@[simp] theorem offer_responses (s : State) (x : Input) : (s.offer x).responses = s.responses := rfl

@[simp] theorem accept_session (s : State) : s.accept.session = s.session := rfl
@[simp] theorem accept_pending (s : State) : s.accept.pending = s.pending.tail := rfl
@[simp] theorem accept_responses (s : State) : s.accept.responses = s.responses := rfl

/-- Accepting what was just offered gives the state back. -/
@[simp] theorem accept_offer (s : State) (x : Input) : (s.offer x).accept = s := rfl

@[simp] theorem completed_status (out : List Byte) : (completed out).status = .ok := rfl
@[simp] theorem completed_out (out : List Byte) : (completed out).out = out := rfl
@[simp] theorem skipped_status : skippedResponse.status = .skipped := rfl
@[simp] theorem skipped_out : skippedResponse.out = [] := rfl

end Sys2Proof.Laws
end

