-- ==== Sys2Proof/Laws/Ops.lean ====
section
/-! SUPPORT. For each shared operation, one lemma that says once everything it can do; the provers cite these instead of
unfolding the operation. -/

namespace Sys2Proof.Laws

open Sys2Proof.Machine

/-- Everything `emitIn` does (40_encoder.md R70, R71). -/
theorem emitIn_cases (need : Shift) (k : Code) (S : Session) :
    (S.encShift = need ∧ emitIn need k S = (S, completed [zextCode k])) ∨
    (S.encShift ≠ need ∧
      emitIn need k S = (S.setEncShift need, completed [zextCode (shiftCode need), zextCode k])) := by
  unfold emitIn
  split
  · exact .inl ⟨‹_›, rfl⟩
  · exact .inr ⟨‹_›, rfl⟩

/-- Everything `raiseInvalidCode` does (60_exceptions.md R95). -/
theorem raiseInvalidCode_eq (S : Session) : raiseInvalidCode S = (S, ⟨.invalidCode, []⟩) := rfl

/-- Everything one looked-up tag does (40_encoder.md R68 to R71). -/
theorem encodeTag_cases (t : Tag) (S : Session) :
    (t = .unrepresentable ∧ encodeTag t S = (S, skippedResponse)) ∨
    (∃ k, t = .both k ∧ encodeTag t S = (S, completed [zextCode k])) ∨
    (∃ k, t = .figures k ∧ encodeTag t S = emitIn .figures k S) ∨
    (∃ k, t = .letters k ∧ encodeTag t S = emitIn .letters k S) := by
  cases t with
  | unrepresentable => exact .inl ⟨rfl, rfl⟩
  | both k => exact .inr (.inl ⟨k, rfl, rfl⟩)
  | figures k => exact .inr (.inr (.inl ⟨k, rfl, rfl⟩))
  | letters k => exact .inr (.inr (.inr ⟨k, rfl, rfl⟩))

/-- Everything the frame of `DEC` does (41_decoder.md R77). -/
theorem decodeFrame_cases (chars : Code → Session × Response) (S : Session) (data : Byte) :
    (isCodeByte data = false ∧ decodeFrame chars S data = raiseInvalidCode S) ∨
    (data = zextCode Config.figsCode ∧ decodeFrame chars S data = (S.setDecShift .figures, completed [])) ∨
    (data = zextCode Config.ltrsCode ∧ decodeFrame chars S data = (S.setDecShift .letters, completed [])) ∨
    (isCodeByte data = true ∧ data ≠ zextCode Config.figsCode ∧ data ≠ zextCode Config.ltrsCode ∧
      decodeFrame chars S data = chars (decOperand data)) := by
  unfold decodeFrame
  by_cases hc : isCodeByte data = true
  · by_cases hf : data = zextCode Config.figsCode
    · refine .inr (.inl ⟨hf, ?_⟩)
      rw [if_neg (by simp [hc]), if_pos hf]
    · by_cases hl : data = zextCode Config.ltrsCode
      · refine .inr (.inr (.inl ⟨hl, ?_⟩))
        rw [if_neg (by simp [hc]), if_neg hf, if_pos hl]
      · refine .inr (.inr (.inr ⟨hc, hf, hl, ?_⟩))
        rw [if_neg (by simp [hc]), if_neg hf, if_neg hl]
  · have hc' : isCodeByte data = false := by simpa using hc
    exact .inl ⟨hc', by simp [hc']⟩

/-! ### Operands and code bytes -/

/-- Masking with 0x7F keeps the low seven bits (30_encoding.md R58). -/
theorem encOperand_eq (data : Byte) : encOperand data = data.setWidth 7 := by revert data; decide

/-- The operand of `DEC` is the low five bits (41_decoder.md R77). -/
theorem decOperand_eq (data : Byte) : decOperand data = data.setWidth 5 := by revert data; decide

/-- The range check of `DEC` (41_decoder.md R78). -/
theorem isCodeByte_iff (data : Byte) : isCodeByte data = true ↔ data.toNat < 32 := by
  simp [isCodeByte, Config.codeLimit, BitVec.lt_def]

/-- A code byte is below 32 (20_memory.md R42). -/
theorem zextCode_lt (k : Code) : (zextCode k).toNat < 32 := by revert k; decide

/-- Widening a code loses nothing. -/
theorem zextCode_inj (j k : Code) : zextCode j = zextCode k ↔ j = k := by
  constructor
  · intro h
    have := congrArg (BitVec.setWidth 5) h
    simpa [zextCode] using this
  · rintro rfl; rfl

/-- The byte of a code, past the range check, has that code as its operand. -/
theorem decOperand_zextCode (k : Code) : decOperand (zextCode k) = k := by revert k; decide

/-- A code byte that is no shift code has an operand that is no shift code (41_decoder.md R81). -/
theorem decOperand_ne_shift (data : Byte) (h : data.toNat < 32) (hf : data ≠ zextCode Config.figsCode)
    (hl : data ≠ zextCode Config.ltrsCode) : decOperand data ≠ Config.figsCode ∧ decOperand data ≠ Config.ltrsCode := by
  revert data; decide

/-! ### The two data operations -/

/-- Everything `encodeOp` does (40_encoder.md R65): skip, one character code, or a shift that changes the state and then a
character code; the character code is the one of the tag. -/
theorem encodeOp_cases (T : Tables) (S : Session) (data : Byte) :
    (encAt T (encOperand data) = .unrepresentable ∧ encodeOp T S data = (S, skippedResponse)) ∨
    (∃ k, tagCode (encAt T (encOperand data)) = some k ∧ encodeOp T S data = (S, completed [zextCode k])) ∨
    (∃ k v, tagCode (encAt T (encOperand data)) = some k ∧ S.encShift ≠ v ∧
      encodeOp T S data = (S.setEncShift v, completed [zextCode (shiftCode v), zextCode k])) := by
  unfold encodeOp
  rcases encodeTag_cases (encAt T (encOperand data)) S with ⟨ht, h⟩ | ⟨k, ht, h⟩ | ⟨k, ht, h⟩ | ⟨k, ht, h⟩
  · exact .inl ⟨ht, h⟩
  · exact .inr (.inl ⟨k, by rw [ht]; rfl, h⟩)
  · rcases emitIn_cases .figures k S with ⟨_, e⟩ | ⟨hne, e⟩
    · exact .inr (.inl ⟨k, by rw [ht]; rfl, by rw [h, e]⟩)
    · exact .inr (.inr ⟨k, .figures, by rw [ht]; rfl, hne, by rw [h, e]⟩)
  · rcases emitIn_cases .letters k S with ⟨_, e⟩ | ⟨hne, e⟩
    · exact .inr (.inl ⟨k, by rw [ht]; rfl, by rw [h, e]⟩)
    · exact .inr (.inr ⟨k, .letters, by rw [ht]; rfl, hne, by rw [h, e]⟩)

/-- Everything step 3 of `DEC` does (41_decoder.md R81), in a table whose sentinels stand where R28 puts them. -/
theorem decodeChar_eq (T : Tables) (hT : decRomSentinels T) (S : Session) (k : Code) (hf : k ≠ Config.figsCode)
    (hl : k ≠ Config.ltrsCode) :
    ∃ a, decAt T S.decShift k = .char a ∧ decodeChar T S k = (S, completed [zextAscii a]) := by
  obtain ⟨a, ha⟩ := (hT S.decShift).2.2 k hf hl
  exact ⟨a, ha, by unfold decodeChar; rw [ha]⟩

/-- Everything `decodeOp` does (41_decoder.md R77), in a table whose sentinels stand where R28 puts them. -/
theorem decodeOp_cases (T : Tables) (hT : decRomSentinels T) (S : Session) (data : Byte) :
    (32 ≤ data.toNat ∧ decodeOp T S data = (S, ⟨.invalidCode, []⟩)) ∨
    (data = zextCode Config.figsCode ∧ decodeOp T S data = (S.setDecShift .figures, completed [])) ∨
    (data = zextCode Config.ltrsCode ∧ decodeOp T S data = (S.setDecShift .letters, completed [])) ∨
    (data.toNat < 32 ∧ data ≠ zextCode Config.figsCode ∧ data ≠ zextCode Config.ltrsCode ∧
      ∃ a, decAt T S.decShift (decOperand data) = .char a ∧
        decodeOp T S data = (S, completed [zextAscii a])) := by
  unfold decodeOp
  rcases decodeFrame_cases (decodeChar T S) S data with ⟨hc, h⟩ | ⟨hd, h⟩ | ⟨hd, h⟩ | ⟨hc, hf, hl, h⟩
  · have : ¬data.toNat < 32 := by rw [← isCodeByte_iff]; simp [hc]
    exact .inl ⟨by omega, h⟩
  · exact .inr (.inl ⟨hd, h⟩)
  · exact .inr (.inr (.inl ⟨hd, h⟩))
  · have hc' := (isCodeByte_iff data).1 hc
    obtain ⟨nf, nl⟩ := decOperand_ne_shift data hc' hf hl
    obtain ⟨a, ha, e⟩ := decodeChar_eq T hT S _ nf nl
    exact .inr (.inr (.inr ⟨hc', hf, hl, a, ha, by rw [h, e]⟩))

/-! ### The response word -/

/-- The four fields of a 20-bit concatenation (00_scope.md R9, 30_encoding.md R59). -/
theorem respWord_fields (a b : BitVec 2) (c d : Byte) :
    (a ++ b ++ c ++ d).extractLsb' 18 2 = a ∧ (a ++ b ++ c ++ d).extractLsb' 16 2 = b ∧
      (a ++ b ++ c ++ d).extractLsb' 8 8 = c ∧ (a ++ b ++ c ++ d).extractLsb' 0 8 = d := by
  have ha := a.isLt
  have hb := b.isLt
  have hc := c.isLt
  have hd := d.isLt
  have e : (a ++ b ++ c ++ d).toNat = a.toNat * 262144 + b.toNat * 65536 + c.toNat * 256 + d.toNat := by
    simp only [BitVec.toNat_append]
    rw [← Nat.shiftLeft_add_eq_or_of_lt hb, ← Nat.shiftLeft_add_eq_or_of_lt hc, ← Nat.shiftLeft_add_eq_or_of_lt hd]
    simp only [Nat.shiftLeft_eq]
    omega
  refine ⟨?_, ?_, ?_, ?_⟩ <;>
    (apply BitVec.eq_of_toNat_eq
     rw [BitVec.extractLsb'_toNat, e, Nat.shiftRight_eq_div_pow]
     omega)

/-! ### Steps and runs -/

/-- A shift state has two values, so what is not the one is the other (00_scope.md R10). -/
theorem shift_ne_letters (v : Shift) : v ≠ .letters ↔ v = .figures := by cases v <;> simp

theorem shift_ne_figures (v : Shift) : v ≠ .figures ↔ v = .letters := by cases v <;> simp

/-- `exec` is the session operation with its response given (00_scope.md R12). -/
theorem exec_eq_sessionOp (i : Instr) (s : State) : exec i s = .next (s.respond (sessionOp tables s.session i)) := by
  cases i <;> rfl

/-- Everything one step can do (00_scope.md R12, 70_reset_and_hazards.md R106, R107): wait, run a command, or reset. -/
theorem step_cases (s : State) :
    (s.pending = [] ∧ step s = .next s) ∨
    (∃ w rest, s.pending = .command w :: rest ∧
      step s = .next (s.accept.respond (sessionOp tables s.session (decode w)))) ∨
    (∃ rest, s.pending = .powerOnReset :: rest ∧ step s = .next s.accept.powerOnReset) := by
  obtain ⟨S, p, rs⟩ := s
  match p with
  | [] => exact .inl ⟨rfl, rfl⟩
  | .command w :: rest => exact .inr (.inl ⟨w, rest, rfl, exec_eq_sessionOp _ _⟩)
  | .powerOnReset :: rest => exact .inr (.inr ⟨rest, rfl, rfl⟩)

/-- A run of no input (70_reset_and_hazards.md R114). -/
@[simp] theorem runInputs_nil (T : Tables) (S : Session) : runInputs T S [] = (S, []) := rfl

/-- A run of commands handles its first command, then the others from the session that leaves (70_reset_and_hazards.md
R114). -/
theorem runCommands_cons (T : Tables) (S : Session) (w : Command) (cs : List Command) :
    runCommands T S (w :: cs) =
      { responses := (sessionOp T S (decode w)).2 :: (runCommands T (sessionOp T S (decode w)).1 cs).responses
        output := (sessionOp T S (decode w)).2.out ++ (runCommands T (sessionOp T S (decode w)).1 cs).output
        final := (runCommands T (sessionOp T S (decode w)).1 cs).final } := rfl

/-- A run handles its first input, then the others from the session that leaves (20_memory.md R46). -/
theorem runInputs_cons (T : Tables) (S : Session) (x : Input) (xs : List Input) :
    runInputs T S (x :: xs) =
      ((runInputs T (inputOp T S x).1 xs).1, (inputOp T S x).2 ++ (runInputs T (inputOp T S x).1 xs).2) := rfl

end Sys2Proof.Laws
end

