-- ==== Sys2Proof/Tests/Slice0.lean ====
section
/-! SUPPORT. The model's own tests. Every expected value is taken from spec/95_test_vectors.md (its row is named) or worked
out by hand from a rule; the witnesses at the end meet the premises of the statements in Certificates/Slice0. -/

namespace Sys2Proof.Tests

open Sys2Proof.Machine

/-- What one command word does to the registers of a block, and the responses it gives. -/
def after (encShift decShift : Shift) (w : Command) : Option (Shift × Shift × List Response) :=
  match step { session := ⟨encShift, decShift⟩, pending := [.command w], responses := [] } with
  | .next s => some (s.session.encShift, s.session.decShift, s.responses)
  | .fault _ => none
  | .refused _ => none

/-! ### Decoding: words written out from R56 and R57 -/

theorem test_decode_enc : decode 0b00_01000001 = .enc 0x41 := by decide
theorem test_decode_dec : decode 0b01_00011011 = .dec 0x1B := by decide
theorem test_decode_encnew : decode 0b10_10100101 = .encnew 0xA5 := by decide
theorem test_decode_decnew : decode 0b11_00000000 = .decnew 0x00 := by decide

/-- The opcode table's own numbering, in whole bytes: 16 bits for a row of 10. -/
theorem test_decode_table_word : decodeTableWord 16 0x1C8 = some (.dec 200) := by decide

/-- No 10-bit port carries the number 0x400 (R56). -/
theorem test_decode_number_rejected : decodeTableWord 16 0x400 = none := by decide

/-! ### WellFormed: an ill-formed term for each check -/

theorem test_encnew_with_data_is_not_well_formed : (Instr.encnew 0x01).wellFormed = false := by decide
theorem test_decnew_with_data_is_not_well_formed : (Instr.decnew 0x80).wellFormed = false := by decide

/-! ### One step of each command -/

/-- V-E2: `Letters` in FIGURES, LTRS first. -/
theorem test_enc_letter_in_figures :
    after .figures .figures 0x041 = some (.letters, .figures, [⟨.ok, [0x1F, 0x03]⟩]) := by decide

/-- V-E18 and V-X4: bit 7 is masked, and the decoder's register is not the one that is read. -/
theorem test_enc_masks_bit_seven :
    after .letters .figures 0x0B3 = some (.figures, .figures, [⟨.ok, [0x1B, 0x01]⟩]) := by decide

/-- V-X3: `DEC` reads `dec_shift`, not `enc_shift`. -/
theorem test_dec_reads_its_own_register :
    after .figures .letters 0x101 = some (.figures, .letters, [⟨.ok, [0x45]⟩]) := by decide

/-- V-D16: 0x3B is not masked to 0x1B. -/
theorem test_dec_does_not_mask :
    after .letters .figures 0x13B = some (.letters, .figures, [⟨.invalidCode, []⟩]) := by decide

/-- V-S3: DATA of `ENCNEW` is ignored. -/
theorem test_encnew_ignores_data : after .figures .figures 0x2FF = some (.letters, .figures, [⟨.ok, []⟩]) := by decide

/-- V-S4: DATA of `DECNEW` is ignored. -/
theorem test_decnew_ignores_data : after .figures .figures 0x35A = some (.figures, .letters, [⟨.ok, []⟩]) := by decide

/-- The word the host places is the next command run (V-E6 step 1, from reset). -/
theorem test_fetch_word_runs :
    (match step (State.reset.withFetchWord 16 0x033) with
      | .next s => s.responses
      | _ => []) = [⟨.ok, [0x1B, 0x01]⟩] := by decide

/-! ### The response word and the notation -/

/-- V-R3. -/
theorem test_response_word : responseWord ⟨.ok, [0x1B, 0x01]⟩ = 0x21B01 := by decide

/-- V-R2 and V-R1: only COUNT tells a NUL from no output. -/
theorem test_response_of_word : responseOfWord 0x10000 = some ⟨.ok, [0x00]⟩ := by decide

/-- R29: the tag of `Figures` is 10, its code in bits 4..0; `Letters` is 11. -/
theorem test_tag_bits : tagBits (.figures 0x05) = 0b1000101 ∧ tagBits (.letters 0x1C) = 0b1111100 := by decide

/-- P4, second line, with its comment. -/
theorem test_assemble_code_of :
    assembleLine ['D', 'E', 'C', ' ', 'c', 'o', 'd', 'e', '(', 'A', ')', ' ', ';', ' ', '0'] = some [.dec 0x03] := by decide

/-- R63: `code(c)` of an unrepresentable character is not of the notation. -/
theorem test_assemble_code_of_unrepresentable :
    assembleLine ['D', 'E', 'C', ' ', 'c', 'o', 'd', 'e', '(', '#', ')'] = none := by decide

/-- R64: escapes in a string; `;` inside it is no comment. -/
theorem test_assemble_string :
    assembleLine ['E', 'N', 'C', 'S', ' ', dquote, ';', backslash, dquote, backslash, 'x', '8', '0', dquote] =
      some [.enc 0x3B, .enc 0x22, .enc 0x80] := by decide

/-! ### Witnesses: states and operands that meet the premises of the statements -/

/-- A configuration of the block: the default one, its open parameters at 0x21, 0x26 and 0x24. -/
def someTables : Tables := defaultTables 0x21 0x26 0x24

/-- What R38 to R40 ask of the entry of one character, as a check. -/
def entryFits (T : Tables) (c : Ascii) : Bool :=
  match encAt T c with
  | .unrepresentable => true
  | .both k => k != Config.figsCode && k != Config.ltrsCode && decAt T .letters k == .char (canon c) &&
      decAt T .figures k == .char (canon c)
  | .letters k => k != Config.figsCode && k != Config.ltrsCode && decAt T .letters k == .char (canon c)
  | .figures k => k != Config.figsCode && k != Config.ltrsCode && decAt T .figures k == .char (canon c)

theorem someTables_fit : ∀ c : Ascii, entryFits someTables c = true := by decide

/-- What R28 asks of an entry that is not at a shift code, as a check. -/
def isCharEntry : DecEntry → Bool
  | .char _ => true
  | .figsShift => false
  | .ltrsShift => false

theorem someTables_chars : ∀ k : Code, k ≠ Config.figsCode → k ≠ Config.ltrsCode →
    isCharEntry (decAt someTables .letters k) = true ∧ isCharEntry (decAt someTables .figures k) = true := by decide

theorem isCharEntry_char (e : DecEntry) (h : isCharEntry e = true) : ∃ a : Ascii, e = .char a := by
  cases e with
  | char a => exact ⟨a, rfl⟩
  | figsShift => cases h
  | ltrsShift => cases h

/-- Premise of StoredRomsGiveTheSameBlock. -/
theorem witness_decRomSentinels : decRomSentinels someTables := by
  intro sh
  cases sh with
  | letters => exact ⟨rfl, rfl, fun k hf hl => isCharEntry_char _ (someTables_chars k hf hl).1⟩
  | figures => exact ⟨rfl, rfl, fun k hf hl => isCharEntry_char _ (someTables_chars k hf hl).2⟩

/-- The other premise of StoredRomsGiveTheSameBlock, at the first and the last character of a decoder ROM. -/
theorem witness_stored_char :
    decAt someTables .letters 0x00 = .char 0x00 ∧ decAt someTables .figures 0x1E = .char 0x3D := by decide

/-- The premise `tablesWf T` of OnlyTheNamedCommandsWriteTheRegisters, OutputCountsFollowTheTable, EncEmitsCodesOnly,
EncodedStreamHasNoRedundantShift and ReceivedTextIsTheSurvivingText. -/
theorem witness_tablesWf : tablesWf someTables := by
  refine ⟨witness_decRomSentinels, ?_, ⟨rfl, by decide⟩, ⟨rfl, rfl, rfl⟩, ⟨1, rfl, rfl, rfl, rfl⟩,
    ⟨⟨0x03, .inl rfl⟩, ⟨0x10, .inl rfl⟩, ⟨0x04, .inr rfl⟩, ?_, ?_⟩, ?_, ?_⟩
  · show ∀ c : Ascii, 0x41 ≤ c → c ≤ 0x5A → encAt someTables (c + 0x20) = encAt someTables c
    decide
  · intro k h; cases h; rfl
  · intro k h; cases h; rfl
  · intro c k h
    have hc := someTables_fit c
    cases he : encAt someTables c <;> simp [entryFits, he, tagCode] at h hc <;> subst h <;> simp [hc]
  · intro c k
    have hc := someTables_fit c
    refine ⟨fun he => ?_, fun he => ?_, fun he => ?_⟩ <;> simp [entryFits, he] at hc <;> simp [hc]

/-- Premises of DecoderTracksTheEncoder. -/
theorem witness_DecoderTracksTheEncoder :
    tablesWf someTables ∧ (⟨.letters, .figures⟩ : Session).decShift = (⟨.figures, .letters⟩ : Session).encShift :=
  ⟨witness_tablesWf, rfl⟩

theorem witness_StepRunsTheDecodedCommand :
    ({ session := ⟨.letters, .letters⟩, pending := [.command 0x3FF, .powerOnReset], responses := [] } : State).pending =
      .command 0x3FF :: [.powerOnReset] := rfl

theorem witness_StepWaitsWithoutInput : State.reset.pending = [] := rfl

theorem witness_PowerOnResetClearsBothRegisters :
    ({ session := ⟨.figures, .figures⟩, pending := [.powerOnReset], responses := [] } : State).pending =
      .powerOnReset :: [] := rfl

theorem witness_NumbersDecodeOrAreRejected : 1023 = (0x3FF : Command).toNat ∧ 1024 ≤ 1024 := by decide

/-- Clauses of EncRunsByItsTag, at the first and last bytes of their kinds. -/
theorem witness_enc_unrepresentable :
    encAt tables ((0x01 : Byte).setWidth 7) = .unrepresentable ∧
      encAt tables ((0xFF : Byte).setWidth 7) = .unrepresentable := by decide

theorem witness_enc_both :
    encAt tables ((0x00 : Byte).setWidth 7) = .both 0x00 ∧ encAt tables ((0xA0 : Byte).setWidth 7) = .both 0x04 := by decide

theorem witness_enc_figures :
    (encAt tables ((0x05 : Byte).setWidth 7) = .figures 0x09 ∧ encAt tables ((0xBF : Byte).setWidth 7) = .figures 0x19) ∧
      (⟨.figures, .letters⟩ : Session).encShift = .figures ∧ State.reset.session.encShift = .letters := by decide

theorem witness_enc_letters :
    (encAt tables ((0x41 : Byte).setWidth 7) = .letters 0x03 ∧ encAt tables ((0xFA : Byte).setWidth 7) = .letters 0x11) ∧
      State.reset.session.encShift = .letters ∧ (⟨.figures, .letters⟩ : Session).encShift = .figures := by decide

/-- Clauses of DecRunsByItsByte, at the edges of the range of codes. -/
theorem witness_dec_invalid : 32 ≤ (0x20 : Byte).toNat ∧ 32 ≤ (0xFF : Byte).toNat := by decide

theorem witness_dec_char :
    ((0x00 : Byte).toNat < 32 ∧ (0x00 : Byte) ≠ 0x1B ∧ (0x00 : Byte) ≠ 0x1F) ∧
      ((0x1E : Byte).toNat < 32 ∧ (0x1E : Byte) ≠ 0x1B ∧ (0x1E : Byte) ≠ 0x1F) := by decide

theorem witness_dec_figures : (⟨.letters, .figures⟩ : Session).decShift = .figures := rfl

/-- The clause of AbnormalOutcomesWriteNothing about a status other than OK. -/
theorem witness_AbnormalOutcomesWriteNothing :
    (sessionOp someTables Session.initial (.dec 0x20)).2.status ≠ .ok ∧
      (sessionOp someTables Session.initial (.enc 0x7F)).2.status ≠ .ok := by decide

/-- The clauses of EncEmitsCodesOnly about outputs of one and of two bytes. -/
theorem witness_EncEmitsCodesOnly :
    (encodeOp someTables Session.initial 0x41).2.out = [0x03] ∧
      (encodeOp someTables Session.initial 0x33).2.out = [0x1B, 0x01] := by decide

/-- The premise of DecNeverEmitsLowercase, beside the three positions it leaves out. -/
theorem witness_DecNeverEmitsLowercase :
    (¬((⟨.letters, .letters⟩ : Session).decShift = .figures ∧
        ((0x0D : Byte) = 0x0D ∨ (0x0D : Byte) = 0x14 ∨ (0x0D : Byte) = 0x1A))) ∧
      ¬((⟨.letters, .figures⟩ : Session).decShift = .figures ∧
        ((0x0C : Byte) = 0x0D ∨ (0x0C : Byte) = 0x14 ∨ (0x0C : Byte) = 0x1A)) := by decide

theorem witness_SharedCodesDecodeAlike :
    (0x00 : Byte) ∈ ([0x00, 0x02, 0x04, 0x08] : List Byte) ∧ (0x08 : Byte) ∈ ([0x00, 0x02, 0x04, 0x08] : List Byte) := by
  decide

/-- Both sides of ReaderRefusesWordsNeverProduced are met. -/
theorem witness_ReaderRefusesWordsNeverProduced :
    responseOfWord 0xC0000 = none ∧ responseOfWord 0x30000 = none := by decide

/-- Premises of StepKeepsResponsesLegal, with a response already given and a command to come. -/
theorem witness_StepKeepsResponsesLegal :
    responsesLegal { session := Session.initial, pending := [.command 0x200], responses := [⟨.ok, [0x41]⟩] } ∧
      step { session := Session.initial, pending := [.command 0x200], responses := [⟨.ok, [0x41]⟩] } =
        .next { session := Session.initial, pending := [], responses := [⟨.ok, [0x41]⟩, ⟨.ok, []⟩] } := by
  refine ⟨fun r hr => ?_, rfl⟩
  rw [List.mem_singleton] at hr
  subst hr
  refine ⟨by decide, fun h => absurd rfl h, fun b hb => ?_, fun a b h => by simp at h⟩
  rw [List.mem_singleton] at hb
  subst hb
  exact rfl

theorem witness_SessionsAreIndependent : (0 : Fin 2) ≠ 1 := by decide

theorem witness_AssembledTextIsTheCommand :
    (Instr.enc 0xFF).wellFormed = true ∧ (Instr.dec 0x00).wellFormed = true ∧ (Instr.encnew 0x00).wellFormed = true ∧
      (Instr.decnew 0x00).wellFormed = true := by decide

end Sys2Proof.Tests
end

/-! SUPPORT. Proofs about the two shift registers (10_state.md): who writes them, where a session starts, and what the
readback outputs show. -/

namespace Sys2Proof.Proofs

open Sys2Proof.Machine Sys2Proof.Laws

/-! ### Who writes the registers (R18) -/

/-- The frame of `ENC` (R65, R68 to R71): the session is kept, with at most one byte emitted, or the register takes
another state, and the shift code that selects this state is emitted first. -/
theorem encodeOp_keeps_or_shifts (T : Tables) (S : Session) (data : Byte) :
    ((encodeOp T S data).1 = S ∧ (encodeOp T S data).2.out.length ≤ 1) ∨
      ∃ (v : Shift) (b : Byte), S.encShift ≠ v ∧ (encodeOp T S data).1 = S.setEncShift v ∧
        (encodeOp T S data).2.out = [zextCode (shiftCode v), b] := by
  rcases encodeOp_cases T S data with ⟨_, hskip⟩ | ⟨k, _, hone⟩ | ⟨k, v, _, hne, htwo⟩
  · exact .inl (by simp [hskip])
  · exact .inl (by simp [hone])
  · exact .inr ⟨v, zextCode k, hne, by simp [htwo]⟩

/-- A byte that the range check of `DEC` turns away (R78) is the byte of no code, so of no shift code. -/
theorem ne_zextCode_of_le {data : Byte} (h : 32 ≤ data.toNat) (k : Code) : data ≠ zextCode k := by
  rintro rfl
  exact absurd (zextCode_lt k) (by omega)

/-- The frame of `DEC` (R78 to R81), in a table whose sentinels stand where R28 puts them: only the two shift codes
write `dec_shift`. -/
theorem decodeOp_session (T : Tables) (hT : decRomSentinels T) (S : Session) (data : Byte) :
    (decodeOp T S data).1 = S.setDecShift
      (if data = zextCode Config.figsCode then .figures
        else if data = zextCode Config.ltrsCode then .letters else S.decShift) := by
  have figs_ne_ltrs : zextCode Config.ltrsCode ≠ zextCode Config.figsCode := by decide
  rcases decodeOp_cases T hT S data with ⟨hbig, h⟩ | ⟨hfigs, h⟩ | ⟨hltrs, h⟩ | ⟨_, hnf, hnl, a, _, h⟩
  · rw [h, if_neg (ne_zextCode_of_le hbig _), if_neg (ne_zextCode_of_le hbig _)]
    rfl
  · rw [h, if_pos hfigs]
  · rw [h, if_neg (hltrs ▸ figs_ne_ltrs), if_pos hltrs]
  · rw [h, if_neg hnf, if_neg hnl]
    rfl

/-- Settles O17, from the frames of `ENC` and `DEC`; the session commands and reset are their own definitions. -/
theorem onlyTheNamedCommandsWriteTheRegisters : Obligations.OnlyTheNamedCommandsWriteTheRegisters := by
  intro T S data hT
  obtain ⟨hsentinels, -⟩ := hT
  exact ⟨encodeOp_keeps_or_shifts T S data, decodeOp_session T hsentinels S data, rfl, rfl, rfl⟩

/-! ### Where a session starts (R17) -/

/-- After reset every block of a system holds the initial session (R17, R103). -/
@[simp] theorem sessionAt_systemReset (n : Nat) (k : Fin n) : sessionAt (systemReset n) k = Session.initial := by
  simp [sessionAt, systemReset]

/-- Settles O8: both registers of `Session.initial` are LETTERS, and it is the session of reset and of every block. -/
theorem everySessionStartsInLetters : Obligations.EverySessionStartsInLetters := by
  refine ⟨initial_encShift, initial_decShift, fun T S data => ⟨?_, ?_, ?_, ?_⟩⟩
  · exact setEncShift_encShift S Config.initialShift
  · exact setDecShift_decShift S Config.initialShift
  · rfl
  · exact sessionAt_systemReset

/-! ### The readback outputs (R16, R24) -/

/-- The bit of a shift state is 0 exactly for LETTERS (R16). -/
theorem shiftBit_eq_zero_iff (v : Shift) : shiftBit v = 0 ↔ v = .letters := by
  cases v with
  | letters => simp [shiftBit]
  | figures => simp [shiftBit]

/-- The bit of a shift state is 1 exactly for FIGURES (R16). -/
theorem shiftBit_eq_one_iff (v : Shift) : shiftBit v = 1 ↔ v = .figures := by
  cases v with
  | letters => simp [shiftBit]
  | figures => simp [shiftBit]

/-- Settles O25: each output is the bit of its own register. -/
theorem readbackShowsTheRegisters : Obligations.ReadbackShowsTheRegisters := fun S =>
  ⟨shiftBit_eq_zero_iff S.encShift, shiftBit_eq_one_iff S.encShift,
    shiftBit_eq_zero_iff S.decShift, shiftBit_eq_one_iff S.decShift⟩

end Sys2Proof.Proofs

/-! SUPPORT. Proofs about the two words of the interface (30_encoding.md): the fields of the response word and how they are
read back, and the rows of the operation map that a command word matches. -/

namespace Sys2Proof.Proofs

open Sys2Proof.Machine Sys2Proof.Laws

/-! ### How many bytes a command emits -/

/-- `ENC` emits at most a shift code and a character code (R62). -/
theorem encodeOp_out_length_le (T : Tables) (S : Session) (data : Byte) :
    (encodeOp T S data).2.out.length ≤ Config.maxEncOut := by
  rcases encodeOp_keeps_or_shifts T S data with ⟨_, hshort⟩ | ⟨v, b, _, _, hpair⟩
  · exact hshort.trans (by decide)
  · simp [hpair, Config.maxEncOut]

/-- Step 3 of `DEC` emits at most one byte, whatever the table holds (R81; the sentinels are log 10). -/
theorem decodeChar_out_length_le (T : Tables) (S : Session) (k : Code) :
    (decodeChar T S k).2.out.length ≤ Config.maxDecOut := by
  unfold decodeChar
  cases decAt T S.decShift k with
  | char a => exact Nat.le_refl 1
  | figsShift => exact Nat.zero_le _
  | ltrsShift => exact Nat.zero_le _

/-- `DEC` emits at most one byte, in any tables (R62): only step 3 emits at all. -/
theorem decodeOp_out_length_le (T : Tables) (S : Session) (data : Byte) :
    (decodeOp T S data).2.out.length ≤ Config.maxDecOut := by
  unfold decodeOp
  rcases decodeFrame_cases (decodeChar T S) S data with ⟨_, h⟩ | ⟨_, h⟩ | ⟨_, h⟩ | ⟨_, _, _, h⟩
  · simp [h, raiseInvalidCode_eq]
  · simp [h]
  · simp [h]
  · exact h ▸ decodeChar_out_length_le T S (decOperand data)

/-- No command emits more than two bytes (R59, R62), in any tables. -/
theorem sessionOp_out_length_le (T : Tables) (S : Session) (i : Instr) : (sessionOp T S i).2.out.length ≤ 2 := by
  cases i with
  | enc data => exact encodeOp_out_length_le T S data
  | dec data => exact (decodeOp_out_length_le T S data).trans (by decide)
  | encnew data => exact Nat.zero_le _
  | decnew data => exact Nat.zero_le _

/-! ### The fields of the response word (R59) -/

@[simp] theorem responseWord_status (r : Response) : (responseWord r).extractLsb' 18 2 = statusBits r.status := by
  obtain ⟨hstatus, -, -, -⟩ := respWord_fields (statusBits r.status) (countBits r) (out0 r) (out1 r)
  exact hstatus

@[simp] theorem responseWord_count (r : Response) : (responseWord r).extractLsb' 16 2 = countBits r := by
  obtain ⟨-, hcount, -, -⟩ := respWord_fields (statusBits r.status) (countBits r) (out0 r) (out1 r)
  exact hcount

@[simp] theorem responseWord_out0 (r : Response) : (responseWord r).extractLsb' 8 8 = out0 r := by
  obtain ⟨-, -, hout0, -⟩ := respWord_fields (statusBits r.status) (countBits r) (out0 r) (out1 r)
  exact hout0

@[simp] theorem responseWord_out1 (r : Response) : (responseWord r).extractLsb' 0 8 = out1 r := by
  obtain ⟨-, -, -, hout1⟩ := respWord_fields (statusBits r.status) (countBits r) (out0 r) (out1 r)
  exact hout1

/-- The two bits of COUNT hold the number of output bytes, as there are at most two. -/
theorem countBits_toNat {r : Response} (h : r.out.length ≤ 2) : (countBits r).toNat = r.out.length := by
  rw [countBits, BitVec.toNat_ofNat]
  omega

@[simp] theorem statusOfBits_statusBits (st : Status) : statusOfBits (statusBits st) = some st := by
  cases st with
  | ok => rfl
  | skipped => rfl
  | invalidCode => rfl

/-- A response of at most two bytes is read back from its word: COUNT tells which of OUT0 and OUT1 belong to `out`. -/
theorem responseOfWord_responseWord {r : Response} (h : r.out.length ≤ 2) :
    responseOfWord (responseWord r) = some r := by
  simp only [responseOfWord, responseWord_status, responseWord_count, responseWord_out0, responseWord_out1,
    statusOfBits_statusBits, countBits_toNat h]
  obtain ⟨st, out⟩ := r
  match out, h with
  | [], _ => rfl
  | [_], _ => rfl
  | [_, _], _ => rfl

/-- Settles O23, from the bound on the output and the four fields. -/
theorem responseWordHasTheFieldsOfTheFormat : Obligations.ResponseWordHasTheFieldsOfTheFormat := by
  intro T S i r
  have hlen : r.out.length ≤ 2 := sessionOp_out_length_le T S i
  refine ⟨?_, ?_, hlen, ?_, ?_, responseOfWord_responseWord hlen⟩
  · rw [responseWord_status]
    cases r.status with
    | ok => rfl
    | skipped => rfl
    | invalidCode => rfl
  · rw [responseWord_count, countBits_toNat hlen]
  · rw [responseWord_out0, out0, List.getD_eq_getElem?_getD]
  · rw [responseWord_out1, out1, List.getD_eq_getElem?_getD]

/-! ### The operation map (R57) -/

/-- A command word is its OP and its DATA (R56). -/
theorem commandWord_opField_dataField (w : Command) : commandWord (opField w) (dataField w) = w := by
  unfold commandWord opField dataField
  rw [BitVec.extractLsb'_append_extractLsb'_eq_extractLsb' (by rfl)]
  exact BitVec.extractLsb'_eq_self

/-- The mask of every row keeps OP and clears DATA. -/
theorem commandWord_and_mask (op : BitVec 2) (data : Byte) : commandWord op data &&& 0x300 = commandWord op 0 := by
  have hmask : (0x300 : Command) = BitVec.allOnes 2 ++ (0 : Byte) := by decide
  rw [commandWord, hmask, BitVec.and_append, BitVec.and_allOnes]
  simp [commandWord]

/-- What a word shows under the mask is its OP. -/
theorem and_mask_eq_iff (w : Command) (op : BitVec 2) : w &&& 0x300 = commandWord op 0 ↔ opField w = op := by
  rw [← commandWord_opField_dataField w, commandWord_and_mask, opField_commandWord]
  constructor
  · intro h
    rw [← opField_commandWord (opField w) 0, h, opField_commandWord]
  · rintro rfl
    rfl

/-- Everything `decode` does: OP selects one of the four commands, with the word's DATA (R57). -/
theorem decode_cases (w : Command) :
    (opField w = 0 ∧ decode w = .enc (dataField w)) ∨ (opField w = 1 ∧ decode w = .dec (dataField w)) ∨
      (opField w = 2 ∧ decode w = .encnew (dataField w)) ∨ (opField w = 3 ∧ decode w = .decnew (dataField w)) := by
  have hop : opField w = 0 ∨ opField w = 1 ∨ opField w = 2 ∨ opField w = 3 := by
    generalize opField w = op
    revert op
    decide
  rcases hop with h | h | h | h
  · exact .inl ⟨h, by rw [decode, h]; rfl⟩
  · exact .inr (.inl ⟨h, by rw [decode, h]; rfl⟩)
  · exact .inr (.inr (.inl ⟨h, by rw [decode, h]; rfl⟩))
  · exact .inr (.inr (.inr ⟨h, by rw [decode, h]; rfl⟩))

/-- The OP of a word is that of the command it decodes to. -/
theorem opOf_decode (w : Command) : opOf (decode w) = opField w := by
  rcases decode_cases w with ⟨hop, h⟩ | ⟨hop, h⟩ | ⟨hop, h⟩ | ⟨hop, h⟩ <;> rw [hop, h] <;> rfl

/-- The DATA of a word is that of the command it decodes to. -/
theorem dataOf_decode (w : Command) : dataOf (decode w) = dataField w := by
  rcases decode_cases w with ⟨_, h⟩ | ⟨_, h⟩ | ⟨_, h⟩ | ⟨_, h⟩ <;> rw [h] <;> rfl

/-- A command is told by its OP and its DATA (R57). -/
theorem instr_eq_iff (i j : Instr) : i = j ↔ opOf i = opOf j ∧ dataOf i = dataOf j := by
  cases i <;> cases j <;> simp [opOf, dataOf]

/-- A word's bits under the mask are the pattern of a command exactly when it decodes to that command with its DATA. -/
theorem and_mask_eq_iff_decode (w : Command) (i : Instr) {op : BitVec 2} {pattern : Command} (hop : opOf i = op)
    (hdata : dataOf i = dataField w) (hpattern : commandWord op 0 = pattern) :
    w &&& 0x300 = pattern ↔ decode w = i := by
  rw [← hpattern, and_mask_eq_iff, instr_eq_iff, opOf_decode, dataOf_decode, hop, hdata]
  simp

/-- The mnemonic of a command tells its OP, and the other way round. -/
theorem mnemonicOf_eq_iff (i j : Instr) : mnemonicOf i = mnemonicOf j ↔ opOf i = opOf j := by
  cases i <;> cases j <;> simp [mnemonicOf, opOf]

/-- Each row of the operation map is the row of a command: its mnemonic, and its OP over the common mask. -/
theorem mem_opcodeRows {r : OpcodeRow} (h : r ∈ opcodeRows) :
    ∃ i : Instr, r = ⟨mnemonicOf i, 0x300, commandWord (opOf i) 0⟩ := by
  simp only [opcodeRows, List.mem_cons, List.not_mem_nil, or_false] at h
  rcases h with rfl | rfl | rfl | rfl
  · exact ⟨.enc 0, rfl⟩
  · exact ⟨.dec 0, rfl⟩
  · exact ⟨.encnew 0, rfl⟩
  · exact ⟨.decnew 0, rfl⟩

/-- A word matches a row exactly when the row is named by the mnemonic of its command (R57). -/
theorem rowMatches_iff (w : Command) {r : OpcodeRow} (hr : r ∈ opcodeRows) :
    rowMatches r w = true ↔ mnemonicOf (decode w) = r.mnemonic := by
  obtain ⟨i, rfl⟩ := mem_opcodeRows hr
  rw [rowMatches, beq_iff_eq, and_mask_eq_iff, mnemonicOf_eq_iff, opOf_decode]

/-- Settles O2, from the mask that keeps OP and the OP that selects the command. -/
theorem everyWordMatchesItsRowOnly : Obligations.EveryWordMatchesItsRowOnly :=
  ⟨fun w =>
      ⟨and_mask_eq_iff_decode w (.enc _) (op := 0b00) rfl rfl (by decide),
        and_mask_eq_iff_decode w (.dec _) (op := 0b01) rfl rfl (by decide),
        and_mask_eq_iff_decode w (.encnew _) (op := 0b10) rfl rfl (by decide),
        and_mask_eq_iff_decode w (.decnew _) (op := 0b11) rfl rfl (by decide)⟩,
    rfl, fun w _ hr => rowMatches_iff w hr⟩

end Sys2Proof.Proofs

/-! SUPPORT. Proofs about the encoder (40_encoder.md): `ENC` as the effect of the tag of its character. -/

namespace Sys2Proof.Proofs

open Sys2Proof.Machine Sys2Proof.Laws

/-- The word made of a command's OP and DATA decodes to the command (R56, R57). -/
theorem decode_commandWord (i : Instr) : decode (commandWord (opOf i) (dataOf i)) = i := by
  rw [instr_eq_iff, opOf_decode, dataOf_decode]
  exact ⟨opField_commandWord _ _, dataField_commandWord _ _⟩

/-- `ENC` does what the tag of the low seven bits of DATA says (R65 to R67). -/
theorem exec_enc_of_tag {data : Byte} {s : State} {t : Tag} (ht : encAt tables (data.setWidth 7) = t) :
    exec (.enc data) s = .next (s.respond (encodeTag t s.session)) := by
  rw [exec_eq_sessionOp, sessionOp, encodeOp, encOperand_eq, ht]

/-- A character met in the state it needs emits its code alone and writes no register (R70, R71). -/
theorem respond_emitIn_of_eq {need : Shift} {s : State} (k : Code) (h : s.session.encShift = need) :
    s.respond (emitIn need k s.session) = { s with responses := s.responses ++ [completed [zextCode k]] } := by
  rcases emitIn_cases need k s.session with ⟨_, he⟩ | ⟨hne, _⟩
  · rw [he]
    rfl
  · exact absurd h hne

/-- A character met in the other state emits the shift code first and selects the state it needs (R70, R71). -/
theorem respond_emitIn_of_ne {need : Shift} {s : State} (k : Code) (h : s.session.encShift ≠ need) :
    s.respond (emitIn need k s.session) = { s with
      session := s.session.setEncShift need
      responses := s.responses ++ [completed [zextCode (shiftCode need), zextCode k]] } := by
  rcases emitIn_cases need k s.session with ⟨heq, _⟩ | ⟨_, he⟩
  · exact absurd heq h
  · rw [he]
    rfl

/-- `ENC` of a FIGURES character in LETTERS: `FIGS_CODE`, the register to FIGURES, then the code (R70). -/
theorem exec_enc_figures_in_letters {data : Byte} {s : State} {k : Code}
    (ht : encAt tables (data.setWidth 7) = .figures k) (hs : s.session.encShift = .letters) :
    exec (.enc data) s = .next { s with
      session := { s.session with encShift := .figures }
      responses := s.responses ++ [⟨.ok, [0x1B, k.setWidth 8]⟩] } :=
  (exec_enc_of_tag ht).trans (congrArg _ (respond_emitIn_of_ne k ((shift_ne_figures _).2 hs)))

/-- `ENC` of a LETTERS character in FIGURES: `LTRS_CODE`, the register to LETTERS, then the code (R71). -/
theorem exec_enc_letters_in_figures {data : Byte} {s : State} {k : Code}
    (ht : encAt tables (data.setWidth 7) = .letters k) (hs : s.session.encShift = .figures) :
    exec (.enc data) s = .next { s with
      session := { s.session with encShift := .letters }
      responses := s.responses ++ [⟨.ok, [0x1F, k.setWidth 8]⟩] } :=
  (exec_enc_of_tag ht).trans (congrArg _ (respond_emitIn_of_ne k ((shift_ne_letters _).2 hs)))

/-- Settles O11, by the tag and, for a character of one shift state, by whether the register is in that state. -/
theorem encRunsByItsTag : Obligations.EncRunsByItsTag := by
  refine ⟨fun data => decode_commandWord (.enc data), ?unrepresentable, ?both, ?figures, ?letters, ?digitThree⟩
  case unrepresentable => exact fun _ _ ht => exec_enc_of_tag ht
  case both => exact fun _ _ _ ht => exec_enc_of_tag ht
  case figures =>
    exact fun _ _ k ht =>
      ⟨fun hs => (exec_enc_of_tag ht).trans (congrArg _ (respond_emitIn_of_eq k hs)), exec_enc_figures_in_letters ht⟩
  case letters =>
    exact fun _ _ k ht =>
      ⟨fun hs => (exec_enc_of_tag ht).trans (congrArg _ (respond_emitIn_of_eq k hs)), exec_enc_letters_in_figures ht⟩
  case digitThree =>
    have hword : decode 0x033 = .enc 0x33 := by decide
    have htag : encAt tables ((0x33 : Byte).setWidth 7) = .figures 0x01 := by decide
    intro s hs
    rw [hword]
    exact exec_enc_figures_in_letters htag hs

end Sys2Proof.Proofs

/-! SUPPORT. Proofs about the decoder (41_decoder.md): `DEC` as the effect of its byte. -/

namespace Sys2Proof.Proofs

open Sys2Proof.Machine Sys2Proof.Laws

/-! ### The sentinels of the default configuration (R28, R37) -/

/-- An entry that is neither of the two sentinels is a character (R28). -/
theorem decEntry_eq_char {e : DecEntry} (h : e ≠ .figsShift ∧ e ≠ .ltrsShift) : ∃ a : Ascii, e = .char a := by
  obtain ⟨not_figs, not_ltrs⟩ := h
  cases e with
  | char a => exact ⟨a, rfl⟩
  | figsShift => exact absurd rfl not_figs
  | ltrsShift => exact absurd rfl not_ltrs

/-- Away from the two shift codes the default tables hold no sentinel (R54): at the open positions they hold a character,
whatever its value, so the check of the 32 codes does not depend on the open parameters. -/
theorem decAt_defaultTables_ne_shift (p0D p14 p1A : Ascii) (sh : Shift) :
    ∀ k : Code, k ≠ Config.figsCode → k ≠ Config.ltrsCode →
      decAt (defaultTables p0D p14 p1A) sh k ≠ .figsShift ∧ decAt (defaultTables p0D p14 p1A) sh k ≠ .ltrsShift := by
  cases sh with
  | letters => exact of_decide_eq_true rfl
  | figures => exact of_decide_eq_true rfl

/-- The default configuration has its sentinels where R28 and R37 put them, for every value of the open parameters. -/
theorem decRomSentinels_defaultTables (p0D p14 p1A : Ascii) : decRomSentinels (defaultTables p0D p14 p1A) := by
  intro sh
  have hchar (k : Code) (hf : k ≠ Config.figsCode) (hl : k ≠ Config.ltrsCode) :=
    decEntry_eq_char (decAt_defaultTables_ne_shift p0D p14 p1A sh k hf hl)
  cases sh with
  | letters => exact ⟨rfl, rfl, hchar⟩
  | figures => exact ⟨rfl, rfl, hchar⟩

/-! ### The effect of each kind of byte (R77) -/

/-- `DEC` of a byte past the range of codes is `InvalidCode` and writes nothing (R78). -/
theorem decodeOp_of_le (T : Tables) (S : Session) {data : Byte} (h : 32 ≤ data.toNat) :
    decodeOp T S data = (S, ⟨.invalidCode, []⟩) := by
  rcases decodeFrame_cases (decodeChar T S) S data with ⟨_, he⟩ | ⟨hfigs, _⟩ | ⟨hltrs, _⟩ | ⟨hcode, _, _, _⟩
  · exact he
  · exact absurd hfigs (ne_zextCode_of_le h _)
  · exact absurd hltrs (ne_zextCode_of_le h _)
  · exact absurd ((isCodeByte_iff data).1 hcode) (by omega)

/-- `DEC` of a code whose entry in the selected table is a character emits the character and writes nothing (R81). -/
theorem decodeOp_of_char {T : Tables} {S : Session} {data : Byte} {a : Ascii} (h : data.toNat < 32)
    (hf : data ≠ zextCode Config.figsCode) (hl : data ≠ zextCode Config.ltrsCode)
    (ha : decAt T S.decShift (decOperand data) = .char a) : decodeOp T S data = (S, completed [zextAscii a]) := by
  rcases decodeFrame_cases (decodeChar T S) S data with ⟨hcode, _⟩ | ⟨hfigs, _⟩ | ⟨hltrs, _⟩ | ⟨_, _, _, he⟩
  · exact absurd ((isCodeByte_iff data).2 h) (by simp [hcode])
  · exact absurd hfigs hf
  · exact absurd hltrs hl
  · rw [decodeOp, he, decodeChar, ha]

/-- `DEC` whose operation keeps the session adds the response and changes nothing else. -/
theorem exec_dec_of_keeps {data : Byte} {s : State} {r : Response}
    (h : decodeOp tables s.session data = (s.session, r)) :
    exec (.dec data) s = .next { s with responses := s.responses ++ [r] } := by
  rw [exec_eq_sessionOp, sessionOp, h]
  rfl

/-- `DEC` of a character code, on this machine (R81). -/
theorem exec_dec_of_char {data : Byte} {s : State} {a : Ascii} (h : data.toNat < 32) (hf : data ≠ 0x1B)
    (hl : data ≠ 0x1F) (ha : decAt tables s.session.decShift (data.setWidth 5) = .char a) :
    exec (.dec data) s = .next { s with responses := s.responses ++ [⟨.ok, [a.setWidth 8]⟩] } :=
  exec_dec_of_keeps (decodeOp_of_char h hf hl (by rw [decOperand_eq, ha]))

/-- Every character code has a character in the table that the shift state selects, on this machine (R28, R81). -/
theorem decAt_tables_eq_char {data : Byte} (sh : Shift) (h : data.toNat < 32) (hf : data ≠ 0x1B) (hl : data ≠ 0x1F) :
    ∃ a : Ascii, decAt tables sh (data.setWidth 5) = .char a := by
  obtain ⟨_, _, hchar⟩ := decRomSentinels_defaultTables Config.pFig0D Config.pFig14 Config.pFig1A sh
  obtain ⟨nf, nl⟩ := decOperand_ne_shift data h hf hl
  rw [← decOperand_eq]
  exact hchar _ nf nl

/-- Settles O12, by the kind of the byte; the four codes named in FIGURES are character codes whose entry is looked up. -/
theorem decRunsByItsByte : Obligations.DecRunsByItsByte := by
  refine ⟨fun data => decode_commandWord (.dec data), ?invalid, ?figsCode, ?ltrsCode, ?character, ?inFigures⟩
  case invalid => exact fun _ s h => exec_dec_of_keeps (decodeOp_of_le tables s.session h)
  case figsCode => exact fun _ => rfl
  case ltrsCode => exact fun _ => rfl
  case character =>
    intro data s h hf hl
    obtain ⟨a, ha⟩ := decAt_tables_eq_char s.session.decShift h hf hl
    exact ⟨a, ha, exec_dec_of_char h hf hl ha⟩
  case inFigures =>
    intro s hs
    refine ⟨exec_dec_of_char (a := 0x33) ?_ ?_ ?_ (hs ▸ rfl), exec_dec_of_char ?_ ?_ ?_ (hs ▸ rfl),
      exec_dec_of_char ?_ ?_ ?_ (hs ▸ rfl), exec_dec_of_char ?_ ?_ ?_ (hs ▸ rfl)⟩
    all_goals decide

end Sys2Proof.Proofs

/-! SUPPORT. Proofs about the session commands (42_session.md): `ENCNEW` and `DECNEW` put their own register to LETTERS. -/

namespace Sys2Proof.Proofs

open Sys2Proof.Machine Sys2Proof.Laws

/-- `ENCNEW` on the machine (R88): the encoder register to LETTERS and an empty response, whatever DATA is (R61). -/
theorem exec_encnew (data : Byte) (s : State) :
    exec (.encnew data) s = .next (s.respond (s.session.setEncShift .letters, completed [])) := by
  rw [exec_eq_sessionOp, sessionOp, encNewOp, Config.initialShift]

/-- `DECNEW` on the machine (R89): the decoder register to LETTERS and an empty response, whatever DATA is (R61). -/
theorem exec_decnew (data : Byte) (s : State) :
    exec (.decnew data) s = .next (s.respond (s.session.setDecShift .letters, completed [])) := by
  rw [exec_eq_sessionOp, sessionOp, decNewOp, Config.initialShift]

/-- Settles O13: the word with OP 10 is that of `ENCNEW`, and the fields of its next state are read off `exec_encnew`. -/
theorem encnewStartsAnEncoderSession : Obligations.EncnewStartsAnEncoderSession :=
  fun data => ⟨decode_commandWord (.encnew data), exec_encnew data⟩

/-- Settles O14: the word with OP 11 is that of `DECNEW`, and the fields of its next state are read off `exec_decnew`. -/
theorem decnewStartsADecoderSession : Obligations.DecnewStartsADecoderSession :=
  fun data => ⟨decode_commandWord (.decnew data), exec_decnew data⟩

end Sys2Proof.Proofs

/-! SUPPORT. Proofs about the outcomes of the commands (60_exceptions.md): the status each one answers with, and what an
abnormal one leaves unchanged. -/

namespace Sys2Proof.Proofs

open Sys2Proof.Machine Sys2Proof.Laws

/-! ### The status of each data operation (R94) -/

/-- `ENC` of an `Unrepresentable` character is skipped and writes nothing (R68). -/
theorem encodeOp_of_unrepresentable {T : Tables} (S : Session) {data : Byte}
    (h : encAt T (encOperand data) = .unrepresentable) : encodeOp T S data = (S, skippedResponse) := by
  rw [encodeOp, h, encodeTag]

/-- A character that `ENC` emits a code for is not skipped: of all tags, only `Unrepresentable` has no code (R27). -/
theorem encodeOp_status (T : Tables) (S : Session) (data : Byte) :
    (encodeOp T S data).2.status = if encAt T (encOperand data) = .unrepresentable then .skipped else .ok := by
  rcases encodeOp_cases T S data with ⟨hskip, h⟩ | ⟨k, hk, h⟩ | ⟨k, v, hk, _, h⟩
  · rw [h, if_pos hskip, skipped_status]
  all_goals
    have hcode : encAt T (encOperand data) ≠ .unrepresentable := fun he => by simp [he, tagCode] at hk
    rw [h, if_neg hcode, completed_status]

/-- Step 3 of `DEC` completes, whatever the table holds (R81; the sentinels are log 10). -/
theorem decodeChar_status (T : Tables) (S : Session) (k : Code) : (decodeChar T S k).2.status = .ok := by
  unfold decodeChar
  cases decAt T S.decShift k with
  | char a => rfl
  | figsShift => rfl
  | ltrsShift => rfl

/-- The range check is the one thing that decides the status of `DEC` (R78), in any tables. -/
theorem decodeOp_status (T : Tables) (S : Session) (data : Byte) :
    (decodeOp T S data).2.status = if 32 ≤ data.toNat then .invalidCode else .ok := by
  split
  case isTrue hbig => rw [decodeOp_of_le T S hbig]
  case isFalse hcode =>
    rcases decodeFrame_cases (decodeChar T S) S data with ⟨hc, _⟩ | ⟨_, h⟩ | ⟨_, h⟩ | ⟨_, _, _, h⟩
    · exact absurd ((isCodeByte_iff data).2 (by omega)) (by simp [hc])
    · rw [decodeOp, h, completed_status]
    · rw [decodeOp, h, completed_status]
    · rw [decodeOp, h, decodeChar_status]

/-! ### The causes of the two abnormal outcomes, and their frame (R94) -/

/-- INVALID_CODE has one cause (R94): a `DEC` of a byte that is no code. -/
theorem sessionOp_status_eq_invalidCode_iff (T : Tables) (S : Session) (i : Instr) :
    (sessionOp T S i).2.status = .invalidCode ↔ ∃ data : Byte, i = .dec data ∧ 32 ≤ data.toNat := by
  cases i with
  | enc data => simp [sessionOp, encodeOp_status, ite_eq_iff]
  | dec data => simp [sessionOp, decodeOp_status]
  | encnew data => simp [sessionOp, encNewOp]
  | decnew data => simp [sessionOp, decNewOp]

/-- SKIPPED has one cause (R94): an `ENC` of an `Unrepresentable` character. -/
theorem sessionOp_status_eq_skipped_iff (T : Tables) (S : Session) (i : Instr) :
    (sessionOp T S i).2.status = .skipped ↔
      ∃ data : Byte, i = .enc data ∧ encAt T (encOperand data) = .unrepresentable := by
  cases i with
  | enc data => simp [sessionOp, encodeOp_status]
  | dec data => simp [sessionOp, decodeOp_status, ite_eq_iff]
  | encnew data => simp [sessionOp, encNewOp]
  | decnew data => simp [sessionOp, decNewOp]

/-- The frame of an abnormal outcome (R94): each of the two causes keeps the whole session and emits nothing. -/
theorem sessionOp_keeps_of_status_ne_ok {T : Tables} {S : Session} {i : Instr}
    (h : (sessionOp T S i).2.status ≠ .ok) : (sessionOp T S i).1 = S ∧ (sessionOp T S i).2.out = [] := by
  cases hstatus : (sessionOp T S i).2.status with
  | ok => exact absurd hstatus h
  | skipped =>
    obtain ⟨data, rfl, hskip⟩ := (sessionOp_status_eq_skipped_iff T S i).1 hstatus
    rw [sessionOp, encodeOp_of_unrepresentable S hskip]
    exact ⟨rfl, rfl⟩
  | invalidCode =>
    obtain ⟨data, rfl, hbig⟩ := (sessionOp_status_eq_invalidCode_iff T S i).1 hstatus
    rw [sessionOp, decodeOp_of_le T S hbig]
    exact ⟨rfl, rfl⟩

/-- Settles O18: the cause of each abnormal status, and the frame that both causes share. -/
theorem abnormalOutcomesWriteNothing : Obligations.AbnormalOutcomesWriteNothing := fun T S i =>
  ⟨sessionOp_status_eq_invalidCode_iff T S i, sessionOp_status_eq_skipped_iff T S i,
    sessionOp_keeps_of_status_ne_ok, rfl, rfl⟩

end Sys2Proof.Proofs

/-! SUPPORT. Proofs about the command word and the numbers that stand for it (30_encoding.md R56, R57): decoding and
encoding are inverse to each other, and a word offered by its number is the word that is run. -/

namespace Sys2Proof.Proofs

open Sys2Proof.Machine Sys2Proof.Laws

/-! ### Encoding and decoding -/

/-- The word of a command is its OP and its DATA (R57). -/
theorem encode_eq_commandWord (i : Instr) : encode i = commandWord (opOf i) (dataOf i) := by
  cases i <;> rfl

@[simp] theorem decode_encode (i : Instr) : decode (encode i) = i := by
  rw [encode_eq_commandWord, decode_commandWord]

@[simp] theorem encode_decode (w : Command) : encode (decode w) = w := by
  rw [encode_eq_commandWord, opOf_decode, dataOf_decode, commandWord_opField_dataField]

/-- Settles O1: a command is its OP and its DATA, and so is a word. -/
theorem decodeAndEncodeAgree : Obligations.DecodeAndEncodeAgree := ⟨decode_encode, encode_decode⟩

/-- Settles O3: each of the listed words is the OP and the DATA of the command listed for it. -/
theorem specWordsDecode : Obligations.SpecWordsDecode :=
  ⟨decode_commandWord (.enc 0x00), decode_commandWord (.enc 0xFF), decode_commandWord (.dec 0x00),
    decode_commandWord (.dec 0xFF), decode_commandWord (.encnew 0x00), decode_commandWord (.encnew 0xA5),
    decode_commandWord (.decnew 0x00), decode_commandWord (.decnew 0xFF)⟩

/-! ### Words given by their number (log 5, log 6) -/

theorem decodeNumber_toNat (w : Command) : decodeNumber w.toNat = .ok (decode w) := by
  rw [decodeNumber, if_pos w.isLt, BitVec.ofNat_toNat, BitVec.setWidth_eq]

theorem decodeNumber_of_le {n : Nat} (h : 1024 ≤ n) : decodeNumber n = .error (.widerThanCommand n) := by
  rw [decodeNumber, if_neg (by omega)]

/-- Settles O4, by whether the number is that of a 10-bit word. -/
theorem numbersDecodeOrAreRejected : Obligations.NumbersDecodeOrAreRejected := by
  intro n
  refine ⟨?_, decodeNumber_of_le⟩
  rintro w rfl
  exact decodeNumber_toNat w

/-- Sixteen bits hold the number of any command word, so the word is got back from it. -/
theorem commandOfNat_toNat (w : Command) : commandOfNat 16 w.toNat = some w := by
  have hw := w.isLt
  have hmod : w.toNat % 2 ^ 16 = w.toNat := Nat.mod_eq_of_lt (by omega)
  rw [commandOfNat, hmod, if_pos hw, BitVec.ofNat_toNat, BitVec.setWidth_eq]

theorem withFetchWord_toNat (s : State) (w : Command) : s.withFetchWord 16 w.toNat = s.offer (.command w) := by
  rw [State.withFetchWord, offerWord, commandOfNat_toNat]

end Sys2Proof.Proofs

/-! SUPPORT. Proofs about one step of the machine (00_scope.md R12): what it does with each input, that it always answers,
and that stepping through the pending inputs is the run of the session. -/

namespace Sys2Proof.Proofs

open Sys2Proof.Machine Sys2Proof.Laws

/-! ### One step -/

/-- The step of a command runs it at the state in which it has been accepted (R12, R46). -/
theorem step_of_command {s : State} {w : Command} {rest : List Input} (h : s.pending = .command w :: rest) :
    step s = exec (decode w) { s with pending := rest } := by
  obtain ⟨S, ps, rs⟩ := s
  subst h
  rfl

/-- The waiting step (R105, R107; log 4). -/
theorem step_of_nil {s : State} (h : s.pending = []) : step s = .next s := by
  rw [step, h]

/-- What the next input does to the machine is what it does to the session, with the responses it gives appended. -/
theorem step_cons (S : Session) (x : Input) (ps : List Input) (rs : List Response) :
    step ⟨S, x :: ps, rs⟩ = .next ⟨(inputOp tables S x).1, ps, rs ++ (inputOp tables S x).2⟩ := by
  cases x with
  | command w => exact exec_eq_sessionOp (decode w) _
  | powerOnReset => rw [inputOp, List.append_nil]; rfl

/-- Settles O5. -/
theorem stepRunsTheDecodedCommand : Obligations.StepRunsTheDecodedCommand := fun _ _ _ => step_of_command

/-- Settles O6. -/
theorem stepWaitsWithoutInput : Obligations.StepWaitsWithoutInput := fun _ => step_of_nil

/-- Settles O9: the word is offered as the next input, and accepting it gives the state back. -/
theorem offeredWordRunsNext : Obligations.OfferedWordRunsNext := fun s w => by
  rw [withFetchWord_toNat, step_of_command (offer_pending s (.command w))]
  rfl

/-- Settles O10, from the three things a step can do. -/
theorem machineAlwaysGoesOn : Obligations.MachineAlwaysGoesOn := fun s => by
  rcases step_cases s with ⟨_, hwait⟩ | ⟨_, _, _, hrun⟩ | ⟨_, _, hreset⟩
  · exact ⟨_, hwait⟩
  · exact ⟨_, hrun⟩
  · exact ⟨_, hreset⟩

/-- Settles O16: the session and the response are those of the session operation, which is given neither list. -/
theorem everyCommandGivesOneResponse : Obligations.EveryCommandGivesOneResponse := fun i S =>
  ⟨(sessionOp tables S i).1, (sessionOp tables S i).2, fun _ _ => exec_eq_sessionOp i _⟩

/-! ### Starting both sides -/

/-- `ENCNEW` then `DECNEW` (R64, R106): both registers LETTERS, whatever they were, and no output. -/
theorem runCommands_session (T : Tables) (S : Session) :
    runCommands T S ((expand .session).map encode) =
      { responses := [⟨.ok, []⟩, ⟨.ok, []⟩], output := [], final := ⟨.letters, .letters⟩ } := by
  simp only [expand, List.map_cons, List.map_nil, runCommands_cons, decode_encode]
  rfl

/-- Settles O7: the step is the reset of the session, and the two words are those of `SESSION`. -/
theorem powerOnResetClearsBothRegisters : Obligations.PowerOnResetClearsBothRegisters := by
  rintro ⟨S, ps, rs⟩ rest rfl
  exact ⟨rfl, fun T => congrArg RunResult.final (runCommands_session T S)⟩

/-- Settles O40: the expansions are lists of commands written out, and `SESSION` runs as both session commands. -/
theorem pseudoInstructionsExpand : Obligations.PseudoInstructionsExpand :=
  ⟨fun _ => ⟨List.map_map, List.map_map⟩, rfl, runCommands_session⟩

/-! ### Runs of the machine -/

/-- Stepping through the inputs `ps` is their run on the session (R46, R114), by induction on the inputs; the session and
the responses already given change from step to step. -/
theorem stepMany_eq_runInputs (ps : List Input) (S : Session) (rs : List Response) :
    stepMany ps.length ⟨S, ps, rs⟩ =
      .next ⟨(runInputs tables S ps).1, [], rs ++ (runInputs tables S ps).2⟩ := by
  induction ps generalizing S rs with
  | nil => rw [runInputs_nil, List.append_nil]; rfl
  | cons x ps ih => rw [List.length_cons, stepMany, step_cons, runInputs_cons]; simp only [ih, List.append_assoc]

/-- Settles O30. -/
theorem steppingIsTheRunOfTheSession : Obligations.SteppingIsTheRunOfTheSession :=
  fun ⟨S, ps, rs⟩ => stepMany_eq_runInputs ps S rs

end Sys2Proof.Proofs

/-! SUPPORT. Proofs about the character tables (20_memory.md): the default configuration meets the constraints on every
configuration, and the ROMs stored in the physical format give the same block. -/

namespace Sys2Proof.Proofs

open Sys2Proof.Machine Sys2Proof.Laws

/-! ### The uses of a tag (R27, R38, R39) -/

/-- The shift states that a tag names, each with the code the character has there (R27). -/
def tagUses : Tag → List (Shift × Code)
  | .unrepresentable => []
  | .both k => [(.letters, k), (.figures, k)]
  | .figures k => [(.figures, k)]
  | .letters k => [(.letters, k)]

/-- A tag has a character code exactly when the character has this code in some state. -/
theorem tagCode_eq_some_iff (t : Tag) (k : Code) : tagCode t = some k ↔ ∃ sh, (sh, k) ∈ tagUses t := by
  cases t with
  | unrepresentable => simp [tagCode, tagUses]
  | both j => simp [tagCode, tagUses, exists_or, eq_comm]
  | figures j => simp [tagCode, tagUses, eq_comm]
  | letters j => simp [tagCode, tagUses, eq_comm]

/-- R39 said once for all tags: in every state a tag names, its code decodes to `canon` of the character. -/
theorem romRoundTrip_iff (T : Tables) :
    romRoundTrip T ↔ ∀ c : Ascii, ∀ u ∈ tagUses (encAt T c), decAt T u.1 u.2 = .char (canon c) := by
  refine forall_congr' fun c => ?_
  cases encAt T c with
  | unrepresentable => simp [tagUses]
  | both j => simp [tagUses]
  | figures j => simp [tagUses]
  | letters j => simp [tagUses]

/-- R38 follows from R28 and R39: a code that decodes to a character in some state is not where the sentinels stand. -/
theorem encRomNoShiftCode_of_romRoundTrip {T : Tables} (hsentinels : decRomSentinels T) (htrip : romRoundTrip T) :
    encRomNoShiftCode T := by
  intro c k hk
  obtain ⟨sh, huse⟩ := (tagCode_eq_some_iff _ k).1 hk
  obtain ⟨hfigs, hltrs, -⟩ := hsentinels sh
  have hchar : decAt T sh k = .char (canon c) := (romRoundTrip_iff T).1 htrip c (sh, k) huse
  refine ⟨?_, ?_⟩
  · rintro rfl
    simp [hfigs] at hchar
  · rintro rfl
    simp [hltrs] at hchar

/-! ### The constraints on the default configuration

No constraint reads an entry that an open parameter fills, so each is checked entry by entry, whatever the parameters. -/

section DefaultTables

variable (p0D p14 p1A : Ascii)

theorem encRomFoldsCase_defaultTables : encRomFoldsCase (defaultTables p0D p14 p1A) :=
  have check : ∀ c : Ascii, 0x41 ≤ c → c ≤ 0x5A →
      encAt (defaultTables p0D p14 p1A) (c + 0x20) = encAt (defaultTables p0D p14 p1A) c := of_decide_eq_true rfl
  check

theorem romDigitThree_defaultTables : romDigitThree (defaultTables p0D p14 p1A) := ⟨0x01, rfl, rfl, rfl, rfl⟩

theorem romLettersAT_defaultTables : romLettersAT (defaultTables p0D p14 p1A) := by
  refine ⟨⟨0x03, .inl rfl⟩, ⟨0x10, .inl rfl⟩, ⟨0x04, .inr rfl⟩, ?_, ?_⟩
  · rintro k ⟨⟩
    rfl
  · rintro k ⟨⟩
    rfl

theorem romRoundTrip_defaultTables : romRoundTrip (defaultTables p0D p14 p1A) :=
  (romRoundTrip_iff _).2 (of_decide_eq_true rfl)

theorem tablesWf_defaultTables : tablesWf (defaultTables p0D p14 p1A) :=
  ⟨decRomSentinels_defaultTables p0D p14 p1A, encRomFoldsCase_defaultTables p0D p14 p1A, ⟨rfl, nofun⟩,
    ⟨rfl, rfl, rfl⟩, romDigitThree_defaultTables p0D p14 p1A, romLettersAT_defaultTables p0D p14 p1A,
    encRomNoShiftCode_of_romRoundTrip (decRomSentinels_defaultTables p0D p14 p1A)
      (romRoundTrip_defaultTables p0D p14 p1A),
    romRoundTrip_defaultTables p0D p14 p1A⟩

end DefaultTables

/-- Settles O26, constraint by constraint. -/
theorem defaultTablesMeetTheConstraints : Obligations.DefaultTablesMeetTheConstraints := tablesWf_defaultTables

/-- The tables of this machine are a configuration of the block. -/
theorem tablesWf_tables : tablesWf tables := tablesWf_defaultTables _ _ _

/-- Settles O27, by counting the entries. -/
theorem defaultTagCounts : Obligations.DefaultTagCounts := by
  unfold Obligations.DefaultTagCounts
  decide

/-- Settles O28: the thirty decodes in each of the two states, the open parameters kept as they are. -/
theorem characterCodesSpellTheAlphabet : Obligations.CharacterCodesSpellTheAlphabet := fun _ _ _ _ => ⟨rfl, rfl⟩

/-! ### The stored ROMs (R29) -/

/-- Bits 6..5 of a stored entry. -/
theorem tagWord_op (op : BitVec 2) (k : Code) : (op ++ k).extractLsb' 5 2 = op := BitVec.extractLsb'_append_eq_left

/-- Bits 4..0 of a stored entry. -/
theorem tagWord_code (op : BitVec 2) (k : Code) : (op ++ k).extractLsb' 0 5 = k := BitVec.extractLsb'_append_eq_right

theorem tagOfBits_tagBits (t : Tag) : tagOfBits (tagBits t) = t := by
  cases t with
  | unrepresentable => rfl
  | both k => simp [tagOfBits, tagBits, tagWord_op, tagWord_code]
  | figures k => simp [tagOfBits, tagBits, tagWord_op, tagWord_code]
  | letters k => simp [tagOfBits, tagBits, tagWord_op, tagWord_code]

theorem romImages_enc_getElem (T : Tables) (c : Ascii) :
    (romImages T).enc[c.toNat]'(c.isLt) = tagBits (encAt T c) := by
  simp [romImages]

theorem imageDecAt_romImages (T : Tables) (sh : Shift) (k : Code) :
    imageDecAt (romImages T) sh k = decEntryByte sh k (decAt T sh k) := by
  cases sh with
  | letters => simp [imageDecAt, romImages]
  | figures => simp [imageDecAt, romImages]

/-- Widening a 7-bit value keeps its number. -/
@[simp] theorem zextAscii_toNat (a : Ascii) : (zextAscii a).toNat = a.toNat := by
  have ha := a.isLt
  rw [zextAscii, BitVec.toNat_setWidth]
  omega

/-- Bit 7 of a widened 7-bit value is clear (R42, R53). -/
theorem bit7Clear_zextAscii (a : Ascii) : bit7Clear (zextAscii a) := by
  simp [bit7Clear, zextAscii]

/-- `DEC` does not depend on what step 3 would do at the two shift codes, which are taken before it (R77). -/
theorem decodeFrame_congr {chars chars' : Code → Session × Response} (S : Session) (data : Byte)
    (h : ∀ k : Code, k ≠ Config.figsCode → k ≠ Config.ltrsCode → chars k = chars' k) :
    decodeFrame chars S data = decodeFrame chars' S data := by
  rcases decodeFrame_cases chars S data with ⟨hc, _⟩ | ⟨rfl, _⟩ | ⟨rfl, _⟩ | ⟨hc, hf, hl, _⟩
  · simp [decodeFrame, hc]
  · rfl
  · rfl
  · obtain ⟨nf, nl⟩ := decOperand_ne_shift data ((isCodeByte_iff data).1 hc) hf hl
    rw [decodeFrame, decodeFrame, h (decOperand data) nf nl]

theorem encodeFromImages_romImages (T : Tables) (S : Session) (data : Byte) :
    encodeFromImages (romImages T) S data = encodeOp T S data := by
  rw [encodeFromImages, romImages_enc_getElem, tagOfBits_tagBits, encodeOp]

theorem decodeFromImages_romImages {T : Tables} (hT : decRomSentinels T) (S : Session) (data : Byte) :
    decodeFromImages (romImages T) S data = decodeOp T S data := by
  refine decodeFrame_congr S data fun k hf hl => ?_
  obtain ⟨a, ha, hchar⟩ := decodeChar_eq T hT S k hf hl
  rw [hchar, imageDecAt_romImages, ha, decEntryByte]

/-- Settles O29: the fields of a stored tag, the entries at their indices, and the two operations read from them. -/
theorem storedRomsGiveTheSameBlock : Obligations.StoredRomsGiveTheSameBlock := by
  refine ⟨fun t => ?tag, romImages_enc_getElem, fun T sh k a ha => ?character, fun T S data hT => ?operations⟩
  case tag =>
    cases t with
    | unrepresentable => exact ⟨rfl, rfl, rfl⟩
    | both k => exact ⟨tagWord_op _ k, tagWord_code _ k, tagOfBits_tagBits _⟩
    | figures k => exact ⟨tagWord_op _ k, tagWord_code _ k, tagOfBits_tagBits _⟩
    | letters k => exact ⟨tagWord_op _ k, tagWord_code _ k, tagOfBits_tagBits _⟩
  case character =>
    rw [imageDecAt_romImages, ha]
    exact ⟨zextAscii_toNat a, bit7Clear_zextAscii a⟩
  case operations => exact ⟨encodeFromImages_romImages T S data, decodeFromImages_romImages hT S data⟩

end Sys2Proof.Proofs

/-! SUPPORT. Proofs about what the commands emit (30_encoding.md R62, 40_encoder.md R72 and R75, 41_decoder.md R83 to R85),
what the reader of a response word refuses, and that every step keeps the responses legal. -/

namespace Sys2Proof.Proofs

open Sys2Proof.Machine Sys2Proof.Laws

/-! ### What `ENC` emits (R72, R75) -/

/-- Bit 7 of the byte given to `ENC` is masked off (R51, R66). -/
theorem encOperand_xor_bit7 (data : Byte) : encOperand (data ^^^ 0x80) = encOperand data := by
  have hmasked : (0x80 : Byte).setWidth 7 = 0#7 := by decide
  rw [encOperand_eq, encOperand_eq, BitVec.setWidth_xor, hmasked, BitVec.xor_zero]

/-- Settles O15: `ENC` looks at its operand only. -/
theorem encIgnoresBitSeven : Obligations.EncIgnoresBitSeven := fun data s => by
  simp only [exec_eq_sessionOp, sessionOp, encodeOp, encOperand_xor_bit7]

/-- A code that is no shift code stands in a byte that is none. -/
theorem zextCode_ne_shift {k : Code} (hk : k ≠ Config.figsCode ∧ k ≠ Config.ltrsCode) :
    zextCode k ≠ zextCode Config.figsCode ∧ zextCode k ≠ zextCode Config.ltrsCode := by
  simpa only [ne_eq, zextCode_inj] using hk

/-- The shift code of a state is one of the two (R6). -/
theorem zextCode_shiftCode (v : Shift) :
    zextCode (shiftCode v) = zextCode Config.figsCode ∨ zextCode (shiftCode v) = zextCode Config.ltrsCode := by
  cases v with
  | letters => exact .inr rfl
  | figures => exact .inl rfl

/-- The forms of the output of `ENC` (R72): nothing, a character code, or a shift code and a character code. -/
theorem encodeOp_out_cases {T : Tables} (hT : encRomNoShiftCode T) (S : Session) (data : Byte) :
    (encodeOp T S data).2.out = [] ∨
      ∃ k : Code, (k ≠ Config.figsCode ∧ k ≠ Config.ltrsCode) ∧
        ((encodeOp T S data).2.out = [zextCode k] ∨
          ∃ v, (encodeOp T S data).2.out = [zextCode (shiftCode v), zextCode k]) := by
  rcases encodeOp_cases T S data with ⟨_, h⟩ | ⟨k, hk, h⟩ | ⟨k, v, hk, _, h⟩
  · exact .inl (by rw [h, skipped_out])
  · exact .inr ⟨k, hT _ k hk, .inl (by rw [h, completed_out])⟩
  · exact .inr ⟨k, hT _ k hk, .inr ⟨v, by rw [h, completed_out]⟩⟩

/-- Every byte `ENC` emits is that of a code (R75). -/
theorem encodeOp_out_mem {T : Tables} {S : Session} {data b : Byte} (hb : b ∈ (encodeOp T S data).2.out) :
    ∃ k : Code, b = zextCode k := by
  rcases encodeOp_cases T S data with ⟨_, h⟩ | ⟨k, _, h⟩ | ⟨k, v, _, _, h⟩
  · simp [h] at hb
  · exact ⟨k, by simpa [h] using hb⟩
  · rw [h, completed_out, List.mem_pair] at hb
    rcases hb with rfl | rfl
    · exact ⟨shiftCode v, rfl⟩
    · exact ⟨k, rfl⟩

/-- A two-byte output of `ENC` is a shift code and then a character code (R72). -/
theorem encodeOp_out_pair {T : Tables} (hT : encRomNoShiftCode T) {S : Session} {data a b : Byte}
    (h : (encodeOp T S data).2.out = [a, b]) : shiftedPair a b := by
  rcases encodeOp_out_cases hT S data with h0 | ⟨k, hk, h1 | ⟨v, h2⟩⟩
  · simp [h0] at h
  · simp [h1] at h
  · rw [h2] at h
    obtain ⟨rfl, rfl⟩ : zextCode (shiftCode v) = a ∧ zextCode k = b := by simpa using h
    exact ⟨zextCode_shiftCode v, k, rfl, hk⟩

/-- A one-byte output of `ENC` is no shift code (R72). -/
theorem encodeOp_out_single {T : Tables} (hT : encRomNoShiftCode T) {S : Session} {data b : Byte}
    (h : (encodeOp T S data).2.out = [b]) : b ≠ zextCode Config.figsCode ∧ b ≠ zextCode Config.ltrsCode := by
  rcases encodeOp_out_cases hT S data with h0 | ⟨k, hk, h1 | ⟨v, h2⟩⟩
  · simp [h0] at h
  · obtain rfl : zextCode k = b := by simpa [h1] using h
    exact zextCode_ne_shift hk
  · simp [h2] at h

/-- Settles O20, by the length of the output. -/
theorem encEmitsCodesOnly : Obligations.EncEmitsCodesOnly := by
  rintro T S data ⟨-, -, -, -, -, -, hnoShift, -⟩
  refine ⟨fun b hb => ?_, fun b => encodeOp_out_single hnoShift, fun a b h => ?_⟩
  · obtain ⟨k, rfl⟩ := encodeOp_out_mem hb
    exact zextCode_lt k
  · obtain ⟨hshift, k, rfl, hk⟩ := encodeOp_out_pair hnoShift h
    exact ⟨hshift, zextCode_ne_shift hk⟩

/-! ### How many bytes (R62, R84) -/

theorem emitIn_out_length (need : Shift) (k : Code) (S : Session) :
    (emitIn need k S).2.out.length = if S.encShift = need then 1 else 2 := by
  rcases emitIn_cases need k S with ⟨hs, h⟩ | ⟨hs, h⟩
  · rw [h, if_pos hs]; rfl
  · rw [h, if_neg hs]; rfl

/-- `DEC` emits a byte exactly for a character code (R84). -/
theorem decodeOp_out_length {T : Tables} (hT : decRomSentinels T) (S : Session) (data : Byte) :
    (decodeOp T S data).2.out.length =
      if 32 ≤ data.toNat ∨ data = zextCode Config.figsCode ∨ data = zextCode Config.ltrsCode then 0 else 1 := by
  rcases decodeOp_cases T hT S data with ⟨hbig, h⟩ | ⟨hf, h⟩ | ⟨hl, h⟩ | ⟨hcode, hf, hl, a, _, h⟩
  · rw [h, if_pos (.inl hbig)]; rfl
  · rw [h, if_pos (.inr (.inl hf))]; rfl
  · rw [h, if_pos (.inr (.inr hl))]; rfl
  · rw [h, if_neg (by simp [hf, hl, hcode])]; rfl

/-- Settles O19: for `ENC` by the tag and the shift state, for `DEC` by the kind of the byte. -/
theorem outputCountsFollowTheTable : Obligations.OutputCountsFollowTheTable := by
  rintro T S data ⟨hsentinels, -⟩
  refine ⟨?_, decodeOp_out_length hsentinels S data, rfl, rfl, encodeOp_out_length_le T S data,
    decodeOp_out_length_le T S data⟩
  rw [encodeOp]
  cases encAt T (encOperand data) with
  | unrepresentable => rfl
  | both k => rfl
  | figures k => rw [encodeTag, emitIn_out_length]; cases S.encShift <;> rfl
  | letters k => rw [encodeTag, emitIn_out_length]; cases S.encShift <;> rfl

/-! ### What `DEC` emits (R83, R85) -/

/-- A byte `DEC` emits is the character that the selected table holds for the code given (R81). -/
theorem decodeOp_out_mem {T : Tables} (hT : decRomSentinels T) {S : Session} {data b : Byte}
    (hb : b ∈ (decodeOp T S data).2.out) :
    data.toNat < 32 ∧ ∃ a : Ascii, decAt T S.decShift (decOperand data) = .char a ∧ b = zextAscii a := by
  rcases decodeOp_cases T hT S data with ⟨_, h⟩ | ⟨_, h⟩ | ⟨_, h⟩ | ⟨hcode, _, _, a, ha, h⟩
  · simp [h] at hb
  · simp [h] at hb
  · simp [h] at hb
  · exact ⟨hcode, a, ha, by simpa [h] using hb⟩

/-- Whether a table entry is one that R85 says is never emitted: a lowercase letter or the double quote. -/
def isLowercaseEntry : DecEntry → Bool
  | .char a => (0x61 ≤ a.toNat && a.toNat ≤ 0x7A) || a == 0x22
  | .figsShift => false
  | .ltrsShift => false

/-- What `isLowercaseEntry` says of the byte that is emitted for a character. -/
theorem isLowercaseEntry_char_eq_false_iff (a : Ascii) :
    isLowercaseEntry (.char a) = false ↔
      ¬(0x61 ≤ (zextAscii a).toNat ∧ (zextAscii a).toNat ≤ 0x7A) ∧ zextAscii a ≠ 0x22 := by
  have hquote : zextAscii a = 0x22#8 ↔ a = 0x22#7 := by
    rw [← BitVec.toNat_inj, ← BitVec.toNat_inj, zextAscii_toNat]
    rfl
  simp [isLowercaseEntry, hquote]

theorem decAt_letters_not_lowercase (p0D p14 p1A : Ascii) :
    ∀ k : Code, isLowercaseEntry (decAt (defaultTables p0D p14 p1A) .letters k) = false := of_decide_eq_true rfl

theorem decAt_figures_not_lowercase (p0D p14 p1A : Ascii) :
    ∀ k : Code, k ≠ 0x0D → k ≠ 0x14 → k ≠ 0x1A →
      isLowercaseEntry (decAt (defaultTables p0D p14 p1A) .figures k) = false := of_decide_eq_true rfl

/-- Past the range check the byte is that of its operand. -/
theorem zextCode_decOperand {data : Byte} (h : data.toNat < 32) : zextCode (decOperand data) = data := by
  rw [zextCode, decOperand_eq, ← BitVec.toNat_inj]
  simp only [BitVec.toNat_setWidth]
  omega

/-- Settles O21: a byte emitted is a character of one of the two default tables, of which only the three open entries in
FIGURES can be lowercase. -/
theorem decNeverEmitsLowercase : Obligations.DecNeverEmitsLowercase := by
  intro p0D p14 p1A S data hopen b hb
  obtain ⟨hcode, a, ha, rfl⟩ := decodeOp_out_mem (decRomSentinels_defaultTables p0D p14 p1A) hb
  rw [← isLowercaseEntry_char_eq_false_iff, ← ha]
  have hdata := zextCode_decOperand hcode
  cases hS : S.decShift with
  | letters => exact decAt_letters_not_lowercase p0D p14 p1A _
  | figures =>
    refine decAt_figures_not_lowercase p0D p14 p1A _ (fun h => ?_) (fun h => ?_) (fun h => ?_)
    · exact hopen ⟨hS, .inl (by rw [← hdata, h]; rfl)⟩
    · exact hopen ⟨hS, .inr (.inl (by rw [← hdata, h]; rfl))⟩
    · exact hopen ⟨hS, .inr (.inr (by rw [← hdata, h]; rfl))⟩

/-- The four codes of R83 hold the same character in both tables, and are none of the bytes that `DEC` takes first. -/
theorem decAt_tables_shared {data : Byte} (h : data ∈ ([0x00, 0x02, 0x04, 0x08] : List Byte)) :
    (data.toNat < 32 ∧ data ≠ zextCode Config.figsCode ∧ data ≠ zextCode Config.ltrsCode) ∧
      ∃ a : Ascii, ∀ sh, decAt tables sh (decOperand data) = .char a := by
  simp only [List.mem_cons, List.not_mem_nil, or_false] at h
  rcases h with rfl | rfl | rfl | rfl
  all_goals exact ⟨by decide, _, fun sh => by cases sh <;> rfl⟩

/-- Settles O22: the one byte emitted is the character that both tables hold. -/
theorem sharedCodesDecodeAlike : Obligations.SharedCodesDecodeAlike := by
  intro S S' data hdata
  obtain ⟨⟨hcode, hf, hl⟩, a, ha⟩ := decAt_tables_shared hdata
  rw [decodeOp_of_char hcode hf hl (ha S.decShift), decodeOp_of_char hcode hf hl (ha S'.decShift)]
  exact ⟨rfl, rfl⟩

/-! ### The reader of a response word (log 19) -/

/-- Only the STATUS field 11 has no status (R59). -/
theorem statusOfBits_eq_none_iff (b : BitVec 2) : statusOfBits b = none ↔ b = 0b11 := by
  revert b
  decide

/-- Settles O24, by whether the STATUS field has a status, and then by the value of COUNT. -/
theorem readerRefusesWordsNeverProduced : Obligations.ReaderRefusesWordsNeverProduced := by
  intro w
  rw [← statusOfBits_eq_none_iff, responseOfWord]
  cases statusOfBits (w.extractLsb' 18 2) with
  | none => simp
  | some st =>
    have hcount : ∀ n : BitVec 2, n = 0 ∨ n = 1 ∨ n = 2 ∨ n = 3 := by decide
    rcases hcount (w.extractLsb' 16 2) with h | h | h | h <;> simp [h]

/-! ### Legal responses (R42, R59, R72, R94) -/

/-- Bit 7 of the byte of a code is clear (R42, R53). -/
theorem bit7Clear_zextCode (k : Code) : bit7Clear (zextCode k) := by
  simp [bit7Clear, zextCode]

/-- Every byte a command emits has bit 7 clear (R42). -/
theorem bit7Clear_of_mem_out {T : Tables} (hT : decRomSentinels T) {S : Session} {i : Instr} {b : Byte}
    (hb : b ∈ (sessionOp T S i).2.out) : bit7Clear b := by
  cases i with
  | enc data =>
    obtain ⟨k, rfl⟩ := encodeOp_out_mem hb
    exact bit7Clear_zextCode k
  | dec data =>
    obtain ⟨_, a, _, rfl⟩ := decodeOp_out_mem hT hb
    exact bit7Clear_zextAscii a
  | encnew data => exact absurd hb List.not_mem_nil
  | decnew data => exact absurd hb List.not_mem_nil

/-- Only `ENC` emits two bytes, a shift code and a character code (R62, R72). -/
theorem shiftedPair_of_out {T : Tables} (hT : encRomNoShiftCode T) {S : Session} {i : Instr} {a b : Byte}
    (h : (sessionOp T S i).2.out = [a, b]) : shiftedPair a b := by
  cases i with
  | enc data => exact encodeOp_out_pair hT h
  | dec data =>
    have hlen := decodeOp_out_length_le T S data
    rw [show (decodeOp T S data).2.out = [a, b] from h] at hlen
    exact absurd hlen (by simp [Config.maxDecOut])
  | encnew data => cases h
  | decnew data => cases h

/-- The response to any command is one the block can produce, in every configuration. -/
theorem legalResponse_sessionOp {T : Tables} (hT : tablesWf T) (S : Session) (i : Instr) :
    legalResponse (sessionOp T S i).2 := by
  obtain ⟨hsentinels, -, -, -, -, -, hnoShift, -⟩ := hT
  refine ⟨sessionOp_out_length_le T S i, fun h => ?_, fun b => bit7Clear_of_mem_out hsentinels,
    fun a b => shiftedPair_of_out hnoShift⟩
  obtain ⟨_, hout⟩ := sessionOp_keeps_of_status_ne_ok h
  exact hout

/-- A legal response given after legal ones (R59). -/
theorem responsesLegal_respond {s : State} {r : Session × Response} (h : responsesLegal s) (hr : legalResponse r.2) :
    responsesLegal (s.respond r) := by
  intro x hx
  rw [respond_responses, List.mem_append, List.mem_singleton] at hx
  rcases hx with hx | rfl
  · exact h x hx
  · exact hr

/-- Settles O31: only a step of a command gives a response, and that is a legal one. -/
theorem stepKeepsResponsesLegal : Obligations.StepKeepsResponsesLegal := by
  intro s s' hs hstep
  rcases step_cases s with ⟨_, h⟩ | ⟨w, rest, _, h⟩ | ⟨rest, _, h⟩
  all_goals
    rw [h] at hstep
    cases hstep
  · exact hs
  · exact responsesLegal_respond (s := s.accept) hs (legalResponse_sessionOp tablesWf_tables s.session (decode w))
  · exact hs

/-- Settles O32: the base of the invariant, with the machine waiting. -/
theorem resetResponsesLegal : Obligations.ResetResponsesLegal :=
  ⟨fun _ h => absurd h List.not_mem_nil, rfl, step_of_nil rfl⟩

end Sys2Proof.Proofs

/-! SUPPORT. Proofs about code streams (40_encoder.md R73, R74; 41_decoder.md R87; 70_reset_and_hazards.md R109, R110): the
stream a sequence of `ENC` emits, and what a receiver makes of it. -/

namespace Sys2Proof.Proofs

open Sys2Proof.Machine Sys2Proof.Laws

/-! ### Streams, byte by byte -/

/-- The output of the `ENC` of each byte, and the session they leave. -/
def encodeStream (T : Tables) (S : Session) (bs : List Byte) : List Byte × Session :=
  ((runCommands T S (encCommands bs)).output, (runCommands T S (encCommands bs)).final)

/-- The output of the `DEC` of each byte, and the session they leave. -/
def decodeStream (T : Tables) (R : Session) (bs : List Byte) : List Byte × Session :=
  ((runCommands T R (decCommands bs)).output, (runCommands T R (decCommands bs)).final)

@[simp] theorem encodeStream_nil (T : Tables) (S : Session) : encodeStream T S [] = ([], S) := rfl

@[simp] theorem decodeStream_nil (T : Tables) (R : Session) : decodeStream T R [] = ([], R) := rfl

theorem encodeStream_cons (T : Tables) (S : Session) (b : Byte) (bs : List Byte) :
    encodeStream T S (b :: bs) =
      ((encodeOp T S b).2.out ++ (encodeStream T (encodeOp T S b).1 bs).1,
        (encodeStream T (encodeOp T S b).1 bs).2) := by
  rw [encodeStream, encCommands, List.map_cons, runCommands_cons, decode_encode]
  rfl

theorem decodeStream_cons (T : Tables) (R : Session) (b : Byte) (bs : List Byte) :
    decodeStream T R (b :: bs) =
      ((decodeOp T R b).2.out ++ (decodeStream T (decodeOp T R b).1 bs).1,
        (decodeStream T (decodeOp T R b).1 bs).2) := by
  rw [decodeStream, decCommands, List.map_cons, runCommands_cons, decode_encode]
  rfl

/-! ### What one byte adds to the stream -/

/-- The shift code that a stream in the state `cur` needs before a code of the state `need`, if it needs one (R70, R71). -/
def shiftPrefix (cur need : Shift) : List Byte := if cur = need then [] else [zextCode (shiftCode need)]

@[simp] theorem shiftPrefix_self (v : Shift) : shiftPrefix v v = [] := if_pos rfl

theorem shiftPrefix_of_ne {cur need : Shift} (h : cur ≠ need) :
    shiftPrefix cur need = [zextCode (shiftCode need)] := if_neg h

/-- A register written with the value it has is unchanged. -/
@[simp] theorem setEncShift_encShift_self (S : Session) : S.setEncShift S.encShift = S := rfl

/-- `emitIn` in one equation: the shift that is needed, then the code; the register is left in the state needed. -/
theorem emitIn_eq_shiftPrefix (need : Shift) (k : Code) (S : Session) :
    emitIn need k S = (S.setEncShift need, completed (shiftPrefix S.encShift need ++ [zextCode k])) := by
  rcases emitIn_cases need k S with ⟨rfl, h⟩ | ⟨hne, h⟩
  · rw [h, shiftPrefix_self, setEncShift_encShift_self]
    rfl
  · rw [h, shiftPrefix_of_ne hne]
    rfl

/-- `ENC` of a representable character (R69 to R71): its code, in a state that its tag names, after the shift to that
state if one is needed. A tag that names both states has the current one among them. -/
theorem encodeOp_of_representable (T : Tables) (S : Session) {b : Byte}
    (h : encAt T (encOperand b) ≠ .unrepresentable) :
    ∃ v k, (v, k) ∈ tagUses (encAt T (encOperand b)) ∧
      encodeOp T S b = (S.setEncShift v, completed (shiftPrefix S.encShift v ++ [zextCode k])) := by
  rw [encodeOp]
  rcases encodeTag_cases (encAt T (encOperand b)) S with ⟨ht, _⟩ | ⟨k, ht, he⟩ | ⟨k, ht, he⟩ | ⟨k, ht, he⟩
  · exact absurd ht h
  · refine ⟨S.encShift, k, ?_, by rw [he, shiftPrefix_self]; rfl⟩
    rw [ht, tagUses]
    cases S.encShift with
    | letters => exact List.mem_cons_self
    | figures => exact List.mem_cons_of_mem _ List.mem_cons_self
  · exact ⟨.figures, k, by rw [ht]; exact List.mem_cons_self, he.trans (emitIn_eq_shiftPrefix _ k S)⟩
  · exact ⟨.letters, k, by rw [ht]; exact List.mem_cons_self, he.trans (emitIn_eq_shiftPrefix _ k S)⟩

/-- Everything one byte adds to the stream: nothing, or a code in a state its tag names, after the shift to that state if
one is needed. -/
theorem encodeStream_cons_cases (T : Tables) (S : Session) (b : Byte) (bs : List Byte) :
    (encAt T (encOperand b) = .unrepresentable ∧ encodeStream T S (b :: bs) = encodeStream T S bs) ∨
    (encAt T (encOperand b) ≠ .unrepresentable ∧ ∃ v k, (v, k) ∈ tagUses (encAt T (encOperand b)) ∧
      encodeStream T S (b :: bs) =
        (shiftPrefix S.encShift v ++ zextCode k :: (encodeStream T (S.setEncShift v) bs).1,
          (encodeStream T (S.setEncShift v) bs).2)) := by
  by_cases h : encAt T (encOperand b) = .unrepresentable
  · exact .inl ⟨h, by rw [encodeStream_cons, encodeOp_of_unrepresentable S h]; rfl⟩
  · obtain ⟨v, k, huse, he⟩ := encodeOp_of_representable T S h
    exact .inr ⟨h, v, k, huse, by rw [encodeStream_cons, he, completed_out, List.append_assoc]; rfl⟩

/-- The byte of a character code is that of no shift code (R38). -/
theorem zextCode_ne_shift_of_mem_tagUses {T : Tables} (hT : encRomNoShiftCode T) {c : Ascii} {v : Shift} {k : Code}
    (h : (v, k) ∈ tagUses (encAt T c)) :
    zextCode k ≠ zextCode Config.figsCode ∧ zextCode k ≠ zextCode Config.ltrsCode :=
  zextCode_ne_shift (hT c k ((tagCode_eq_some_iff _ k).2 ⟨v, h⟩))

/-! ### No shift is redundant (R73) -/

/-- A byte that is no shift code can stand before any stream. -/
theorem noAdjacentShifts_cons {b : Byte} {rest : List Byte}
    (hb : b ≠ zextCode Config.figsCode ∧ b ≠ zextCode Config.ltrsCode) (h : noAdjacentShifts rest) :
    noAdjacentShifts (b :: rest) := by
  cases rest with
  | nil => trivial
  | cons c rest => exact ⟨fun ⟨hshift, _⟩ => hshift.elim hb.1 hb.2, h⟩

/-- A needed shift and a byte that is no shift code can stand before any stream. -/
theorem noAdjacentShifts_shiftPrefix {b : Byte} {rest : List Byte} (cur need : Shift)
    (hb : b ≠ zextCode Config.figsCode ∧ b ≠ zextCode Config.ltrsCode) (h : noAdjacentShifts rest) :
    noAdjacentShifts (shiftPrefix cur need ++ b :: rest) := by
  by_cases hs : cur = need
  · rw [hs, shiftPrefix_self]
    exact noAdjacentShifts_cons hb h
  · rw [shiftPrefix_of_ne hs]
    exact ⟨fun ⟨_, hshift⟩ => hshift.elim hb.1 hb.2, noAdjacentShifts_cons hb h⟩

/-- A byte that is no shift code leaves the state of a stream as it is. -/
theorem noRedundantShift_cons {b : Byte} {rest : List Byte} (sh : Shift)
    (hb : b ≠ zextCode Config.figsCode ∧ b ≠ zextCode Config.ltrsCode) :
    noRedundantShift sh (b :: rest) ↔ noRedundantShift sh rest := by
  rw [noRedundantShift, if_neg hb.1, if_neg hb.2]

/-- A shift code is redundant exactly when its state is the current one, and the stream goes on in its state. -/
theorem noRedundantShift_shiftCode (cur need : Shift) (rest : List Byte) :
    noRedundantShift cur (zextCode (shiftCode need) :: rest) ↔ cur ≠ need ∧ noRedundantShift need rest := by
  cases need with
  | figures => rw [shift_ne_figures]; rfl
  | letters => rw [shift_ne_letters]; rfl

/-- A shift that is needed is never redundant, and the stream goes on in the state that was needed. -/
theorem noRedundantShift_shiftPrefix (cur need : Shift) (rest : List Byte) :
    noRedundantShift cur (shiftPrefix cur need ++ rest) ↔ noRedundantShift need rest := by
  by_cases hs : cur = need
  · rw [hs, shiftPrefix_self, List.nil_append]
  · rw [shiftPrefix_of_ne hs, List.singleton_append, noRedundantShift_shiftCode]
    exact and_iff_right hs

/-- R73 for the stream of any bytes, by induction on them: a byte adds nothing, or a shift if one is needed and
a code. -/
theorem encodeStream_noRedundantShift {T : Tables} (hT : encRomNoShiftCode T) (bs : List Byte) (S : Session) :
    noAdjacentShifts (encodeStream T S bs).1 ∧ noRedundantShift S.encShift (encodeStream T S bs).1 := by
  induction bs generalizing S with
  | nil => exact ⟨trivial, trivial⟩
  | cons b bs ih =>
    rcases encodeStream_cons_cases T S b bs with ⟨_, h⟩ | ⟨_, v, k, huse, h⟩
    · rw [h]
      exact ih S
    · rw [h]
      have hk := zextCode_ne_shift_of_mem_tagUses hT huse
      obtain ⟨hadjacent, hredundant⟩ := ih (S.setEncShift v)
      exact ⟨noAdjacentShifts_shiftPrefix _ v hk hadjacent,
        (noRedundantShift_shiftPrefix _ v _).2 ((noRedundantShift_cons v hk).2 hredundant)⟩

/-- Settles O33. -/
theorem encodedStreamHasNoRedundantShift : Obligations.EncodedStreamHasNoRedundantShift := by
  rintro T S bs ⟨-, -, -, -, -, -, hnoShift, -⟩
  exact encodeStream_noRedundantShift hnoShift bs S

/-! ### The receiver (R74, R87) -/

/-- A receiver decodes the shift code of a state to that state, with no output (R79, R80). -/
theorem decodeStream_shiftCode (T : Tables) (R : Session) (v : Shift) (rest : List Byte) :
    decodeStream T R (zextCode (shiftCode v) :: rest) = decodeStream T (R.setDecShift v) rest := by
  have hop : decodeOp T R (zextCode (shiftCode v)) = (R.setDecShift v, completed []) := by cases v <;> rfl
  rw [decodeStream_cons, hop]
  rfl

/-- A receiver in the state of the sender goes to the state that the sender needs. -/
theorem decodeStream_shiftPrefix (T : Tables) {R : Session} {cur : Shift} (h : R.decShift = cur) (need : Shift)
    (rest : List Byte) :
    decodeStream T R (shiftPrefix cur need ++ rest) = decodeStream T (R.setDecShift need) rest := by
  by_cases hs : cur = need
  · rw [← hs, shiftPrefix_self, ← h]
    rfl
  · rw [shiftPrefix_of_ne hs, List.singleton_append, decodeStream_shiftCode]

/-- A receiver in a state that the tag of a character names decodes its code to `canon` of the character (R39, R87). -/
theorem decodeStream_character {T : Tables} (hT : tablesWf T) {R : Session} {c : Ascii} {k : Code}
    (h : (R.decShift, k) ∈ tagUses (encAt T c)) (rest : List Byte) :
    decodeStream T R (zextCode k :: rest) =
      (zextAscii (canon c) :: (decodeStream T R rest).1, (decodeStream T R rest).2) := by
  obtain ⟨-, -, -, -, -, -, hnoShift, htrip⟩ := hT
  obtain ⟨hf, hl⟩ := zextCode_ne_shift_of_mem_tagUses hnoShift h
  have hentry : decAt T R.decShift (decOperand (zextCode k)) = .char (canon c) := by
    rw [decOperand_zextCode]
    exact (romRoundTrip_iff T).1 htrip c _ h
  rw [decodeStream_cons, decodeOp_of_char (zextCode_lt k) hf hl hentry]
  rfl

theorem survivingText_cons_of_unrepresentable {T : Tables} {b : Byte} (bs : List Byte)
    (h : encAt T (encOperand b) = .unrepresentable) : survivingText T (b :: bs) = survivingText T bs := by
  simp [survivingText, h]

theorem survivingText_cons_of_representable {T : Tables} {b : Byte} (bs : List Byte)
    (h : encAt T (encOperand b) ≠ .unrepresentable) :
    survivingText T (b :: bs) = zextAscii (canon (encOperand b)) :: survivingText T bs := by
  simp [survivingText, h]

/-- The tracking invariant (R74) together with the round trip (R87), by induction on the text: from agreeing registers a
receiver decodes the stream to the surviving text, and its register is then the sender's. -/
theorem decodeStream_encodeStream {T : Tables} (hT : tablesWf T) (bs : List Byte) (S R : Session)
    (h : R.decShift = S.encShift) :
    decodeStream T R (encodeStream T S bs).1 =
      (survivingText T bs, R.setDecShift (encodeStream T S bs).2.encShift) := by
  induction bs generalizing S R with
  | nil => rw [encodeStream_nil, ← h]; rfl
  | cons b bs ih =>
    rcases encodeStream_cons_cases T S b bs with ⟨hb, he⟩ | ⟨hb, v, k, huse, he⟩
    · rw [he, ih S R h, survivingText_cons_of_unrepresentable bs hb]
    · rw [he, decodeStream_shiftPrefix T h v, decodeStream_character hT (R := R.setDecShift v) huse,
        ih (S.setEncShift v) (R.setDecShift v) rfl, survivingText_cons_of_representable bs hb]
      rfl

/-- Settles O34. -/
theorem decoderTracksTheEncoder : Obligations.DecoderTracksTheEncoder := fun _ S R bs hT h =>
  congrArg (fun q => q.2.decShift) (decodeStream_encodeStream hT bs S R h)

/-! ### Sessions and the preamble (R108 to R110) -/

/-- The preamble takes a receiver to LETTERS with no output (R110). -/
theorem decodeStream_preamble (T : Tables) (R : Session) (rest : List Byte) :
    decodeStream T R (preamble ++ rest) = decodeStream T (R.setDecShift .letters) rest :=
  (decodeStream_shiftCode T R .letters _).trans (decodeStream_shiftCode T _ .letters rest)

/-- To a receiver in LETTERS it makes no difference whether the preamble is sent (log 8). -/
theorem decodeStream_preambleFor (T : Tables) {R : Session} (h : R.decShift = .letters) (bs rest : List Byte) :
    decodeStream T R (preambleFor bs ++ rest) = decodeStream T R rest := by
  rw [preambleFor]
  split
  · rfl
  · rw [decodeStream_preamble, ← h]
    rfl

/-- An encoding session emits the stream of its bytes, begun in LETTERS. -/
theorem runCommands_encodingSession_output (T : Tables) (S : Session) (bs : List Byte) :
    (runCommands T S (encodingSession bs)).output = (encodeStream T (S.setEncShift .letters) bs).1 := by
  rw [encodingSession, runCommands_cons, decode_encode]
  rfl

/-- A decoding session decodes its bytes from LETTERS. -/
theorem runCommands_decodingSession (T : Tables) (R : Session) (bs : List Byte) :
    ((runCommands T R (decodingSession bs)).output, (runCommands T R (decodingSession bs)).final) =
      decodeStream T (R.setDecShift .letters) bs := by
  rw [decodingSession, runCommands_cons, decode_encode]
  rfl

theorem receivedText_eq (T : Tables) (R : Session) (bs : List Byte) :
    receivedText T R bs = (decodeStream T (R.setDecShift .letters) bs).1 :=
  congrArg Prod.fst (runCommands_decodingSession T R bs)

/-- Settles O35: both sessions begin in LETTERS, which the preamble does not change. -/
theorem receivedTextIsTheSurvivingText : Obligations.ReceivedTextIsTheSurvivingText := by
  intro T S R bs hT
  rw [receivedText_eq, transmittedStream, runCommands_encodingSession_output,
    decodeStream_preambleFor T (R := R.setDecShift .letters) rfl, decodeStream_encodeStream hT _ _ _ rfl]

/-- Settles O36: the preamble with nothing after it. -/
theorem preambleDecodesToNothing : Obligations.PreambleDecodesToNothing := fun T S =>
  have h := (runCommands_decodingSession T S preamble).trans (decodeStream_preamble T (S.setDecShift .letters) [])
  ⟨congrArg Prod.fst h, congrArg Prod.snd h⟩

end Sys2Proof.Proofs

/-! SUPPORT. Proofs about independence: of the two directions of one block (42_session.md R91 to R93), and of the blocks of a
system (20_memory.md R49, 60_exceptions.md R103). -/

namespace Sys2Proof.Proofs

open Sys2Proof.Machine Sys2Proof.Laws

/-! ### The two directions of a block (R91 to R93) -/

/-- `ENC` reads and writes `enc_shift` only (R91): with another decoder register it does the same. -/
theorem encodeOp_frame (T : Tables) (S : Session) (d : Shift) (data : Byte) :
    encodeOp T (S.setDecShift d) data = ((encodeOp T S data).1.setDecShift d, (encodeOp T S data).2) := by
  rw [encodeOp, encodeOp]
  cases encAt T (encOperand data) with
  | unrepresentable => rfl
  | both k => rfl
  | figures k => simp only [encodeTag, emitIn_eq_shiftPrefix]; rfl
  | letters k => simp only [encodeTag, emitIn_eq_shiftPrefix]; rfl

/-- Step 3 of `DEC` reads and writes `dec_shift` only, whatever the table holds (R92; the sentinels are log 10). -/
theorem decodeChar_frame (T : Tables) (S : Session) (e : Shift) (k : Code) :
    decodeChar T (S.setEncShift e) k = ((decodeChar T S k).1.setEncShift e, (decodeChar T S k).2) := by
  rw [decodeChar, decodeChar, setEncShift_decShift]
  cases decAt T S.decShift k <;> rfl

/-- `DEC` reads and writes `dec_shift` only (R92): with another encoder register it does the same. -/
theorem decodeOp_frame (T : Tables) (S : Session) (e : Shift) (data : Byte) :
    decodeOp T (S.setEncShift e) data = ((decodeOp T S data).1.setEncShift e, (decodeOp T S data).2) := by
  rw [decodeOp, decodeOp, decodeFrame, decodeFrame, decodeChar_frame]
  split_ifs <;> rfl

/-- The commands of `side` are those of one direction with the register `reg`: what they do to it and answer depends on it
alone, and no other command writes it. -/
structure OwnsRegister (T : Tables) (side : Instr → Bool) (reg : Session → Shift) : Prop where
  own : ∀ (i : Instr) (S S' : Session), side i = true → reg S = reg S' →
    reg (sessionOp T S i).1 = reg (sessionOp T S' i).1 ∧ (sessionOp T S i).2 = (sessionOp T S' i).2
  other : ∀ (i : Instr) (S : Session), side i = false → reg (sessionOp T S i).1 = reg S

/-- Sessions that agree in `enc_shift` differ in `dec_shift` only (R15). -/
theorem setDecShift_of_encShift_eq {S S' : Session} (h : S.encShift = S'.encShift) :
    S'.setDecShift S.decShift = S := by
  rw [Session.setDecShift, ← h]

/-- Sessions that agree in `dec_shift` differ in `enc_shift` only (R15). -/
theorem setEncShift_of_decShift_eq {S S' : Session} (h : S.decShift = S'.decShift) :
    S'.setEncShift S.encShift = S := by
  rw [Session.setEncShift, ← h]

/-- The encoder's commands and `enc_shift` (R91). -/
theorem ownsRegister_encSide (T : Tables) : OwnsRegister T isEncSide Session.encShift where
  own i S S' hi h := by
    rw [← setDecShift_of_encShift_eq h]
    cases i with
    | enc data => rw [sessionOp, sessionOp, encodeOp_frame]; exact ⟨rfl, rfl⟩
    | encnew data => exact ⟨rfl, rfl⟩
    | dec data => cases hi
    | decnew data => cases hi
  other i S hi := by
    cases i with
    | dec data => exact congrArg (fun q => q.1.encShift) (decodeOp_frame T S S.encShift data)
    | decnew data => rfl
    | enc data => cases hi
    | encnew data => cases hi

/-- The decoder's commands and `dec_shift` (R92). -/
theorem ownsRegister_decSide (T : Tables) : OwnsRegister T isDecSide Session.decShift where
  own i S S' hi h := by
    rw [← setEncShift_of_decShift_eq h]
    cases i with
    | dec data => rw [sessionOp, sessionOp, decodeOp_frame]; exact ⟨rfl, rfl⟩
    | decnew data => exact ⟨rfl, rfl⟩
    | enc data => cases hi
    | encnew data => cases hi
  other i S hi := by
    cases i with
    | enc data => exact congrArg (fun q => q.1.decShift) (encodeOp_frame T S S.decShift data)
    | encnew data => rfl
    | dec data => cases hi
    | decnew data => cases hi

/-- Of the responses to a list of commands, the first is kept exactly when its command is of the side. -/
theorem responsesTo_cons (side : Instr → Bool) (w : Command) (cs : List Command) (r : Response) (rs : List Response) :
    responsesTo side (w :: cs) (r :: rs) =
      if side (decode w) then r :: responsesTo side cs rs else responsesTo side cs rs := by
  rw [responsesTo, List.zip_cons_cons, List.filter_cons]
  split <;> rfl

/-- R93 for one direction, by induction on the commands: leaving out the commands of the other direction changes neither
the register nor the responses, from any two sessions that agree in the register. -/
theorem OwnsRegister.run_filter {T : Tables} {side : Instr → Bool} {reg : Session → Shift}
    (hside : OwnsRegister T side reg) (cs : List Command) (S S' : Session) (h : reg S = reg S') :
    reg (runCommands T S cs).final = reg (runCommands T S' (cs.filter fun w => side (decode w))).final ∧
      responsesTo side cs (runCommands T S cs).responses =
        (runCommands T S' (cs.filter fun w => side (decode w))).responses := by
  induction cs generalizing S S' with
  | nil => exact ⟨h, rfl⟩
  | cons w cs ih =>
    rw [runCommands_cons, responsesTo_cons]
    cases hw : side (decode w) with
    | true =>
      obtain ⟨hreg, hresponse⟩ := hside.own (decode w) S S' hw h
      obtain ⟨hfinal, hresponses⟩ := ih _ _ hreg
      rw [List.filter_cons_of_pos (p := fun w => side (decode w)) hw, runCommands_cons, if_pos rfl, hresponse, hresponses]
      exact ⟨hfinal, rfl⟩
    | false =>
      rw [List.filter_cons_of_neg (p := fun w => side (decode w)) (by simp [hw]), if_neg (by decide)]
      exact ih _ _ ((hside.other (decode w) S hw).trans h)

/-- Settles O37: each direction with its own register. -/
theorem directionsAreIndependent : Obligations.DirectionsAreIndependent := by
  intro T S cs
  obtain ⟨henc, hencResponses⟩ := (ownsRegister_encSide T).run_filter cs S S rfl
  obtain ⟨hdec, hdecResponses⟩ := (ownsRegister_decSide T).run_filter cs S S rfl
  refine ⟨?_, hencResponses, hdecResponses⟩
  rw [← henc, ← hdec]

/-! ### The blocks of a system (R49, R103) -/

section System

variable {n : Nat} (T : Tables) (Y : System n) {j k : Fin n} (x y : Input)

@[simp] theorem systemStep_sessions :
    (systemStep T Y k y).1.sessions = Y.sessions.set k (inputOp T (sessionAt Y k) y).1 := rfl

@[simp] theorem systemStep_responses : (systemStep T Y k y).2 = (inputOp T (sessionAt Y k) y).2 := rfl

@[simp] theorem sessionAt_systemStep_self :
    sessionAt (systemStep T Y k y).1 k = (inputOp T (sessionAt Y k) y).1 := by
  simp [sessionAt, systemStep]

theorem sessionAt_systemStep_of_ne (h : j ≠ k) : sessionAt (systemStep T Y k y).1 j = sessionAt Y j :=
  Vector.getElem_set_ne k.isLt j.isLt fun hkj => h (Fin.ext hkj.symm)

/-- What an input does to its block, and what it answers, does not depend on an input to another block. -/
theorem inputOp_systemStep_of_ne (h : j ≠ k) :
    inputOp T (sessionAt (systemStep T Y k y).1 j) x = inputOp T (sessionAt Y j) x := by
  rw [sessionAt_systemStep_of_ne T Y y h]

theorem systemStep_responses_of_ne (h : j ≠ k) :
    (systemStep T (systemStep T Y k y).1 j x).2 = (systemStep T Y j x).2 := by
  rw [systemStep_responses, inputOp_systemStep_of_ne T Y x y h, systemStep_responses]

theorem systemStep_comm (h : j ≠ k) :
    (systemStep T (systemStep T Y j x).1 k y).1 = (systemStep T (systemStep T Y k y).1 j x).1 := by
  have hsessions : (systemStep T (systemStep T Y j x).1 k y).1.sessions =
      (systemStep T (systemStep T Y k y).1 j x).1.sessions := by
    rw [systemStep_sessions, inputOp_systemStep_of_ne T Y y x h.symm, systemStep_sessions, systemStep_sessions,
      inputOp_systemStep_of_ne T Y x y h, systemStep_sessions]
    exact Vector.set_comm _ _ fun hjk => h (Fin.ext hjk)
  exact congrArg System.mk hsessions

end System

/-- Settles O38: an input writes the session of its block alone. -/
theorem sessionsAreIndependent : Obligations.SessionsAreIndependent := fun _ T Y _ y =>
  ⟨sessionAt_systemStep_self T Y y, systemStep_responses T Y y, fun _ x h =>
    ⟨sessionAt_systemStep_of_ne T Y y h, systemStep_responses_of_ne T Y x y h,
      systemStep_comm T Y x y h⟩⟩

end Sys2Proof.Proofs

/-! SUPPORT. Proofs about the written form of commands (30_encoding.md R63): the text of a command assembles to the command. -/

namespace Sys2Proof.Proofs

open Sys2Proof.Machine Sys2Proof.Laws

/-- The digit written for a value is read as this value. -/
theorem hexValue_hexDigit {n : Nat} (h : n < 16) : hexValue (hexDigit n) = some n := by
  revert n
  decide

/-- The two digits written for a byte are read as this byte. -/
theorem hexByte_hexDigit (b : Byte) : hexByte (hexDigit (b.toNat / 16)) (hexDigit (b.toNat % 16)) = some b := by
  have hb := b.isLt
  have hdigits : BitVec.ofNat 8 (16 * (b.toNat / 16) + b.toNat % 16) = b := by
    rw [Nat.div_add_mod, BitVec.ofNat_toNat, BitVec.setWidth_eq]
  rw [hexByte, hexValue_hexDigit (by omega), hexValue_hexDigit (by omega)]
  exact congrArg some hdigits

/-- A byte written as `0xHH` is read as this byte, in an operand of either command. -/
theorem parseByte_hexText (forDec : Bool) (b : Byte) : parseByte forDec (hexText b) = some (b, []) := by
  rw [hexText, parseByte, hexByte_hexDigit]
  rfl

/-- The operand field of a mnemonic and one blank before a byte as `0xHH`. -/
theorem operandField_hexText (b : Byte) : operandField (' ' :: hexText b) = some (hexText b) := rfl

theorem assembleLine_enc (b : Byte) : assembleLine (printInstr (.enc b)) = some [.enc b] := by
  have hline : assembleLine (printInstr (.enc b)) =
      finish ((operandField (' ' :: hexText b)).bind (parseByte false)) fun b => [.enc b] := rfl
  rw [hline, operandField_hexText, Option.bind_some, parseByte_hexText]
  rfl

theorem assembleLine_dec (b : Byte) : assembleLine (printInstr (.dec b)) = some [.dec b] := by
  have hline : assembleLine (printInstr (.dec b)) =
      finish ((operandField (' ' :: hexText b)).bind (parseByte true)) fun b => [.dec b] := rfl
  rw [hline, operandField_hexText, Option.bind_some, parseByte_hexText]
  rfl

/-- Settles O39: a data command by its byte; a session command that is well-formed has DATA 0, which its text stands for. -/
theorem assembledTextIsTheCommand : Obligations.AssembledTextIsTheCommand := by
  intro i hi
  cases i with
  | enc b => exact assembleLine_enc b
  | dec b => exact assembleLine_dec b
  | encnew b =>
    obtain rfl : b = 0 := eq_of_beq hi
    rfl
  | decnew b =>
    obtain rfl : b = 0 := eq_of_beq hi
    rfl

end Sys2Proof.Proofs
